-- ==== Sys2Proof/Word.lean ====
section
/-! DEFINITION. The fixed widths of CCA-CORE (00_scope.md rules R7, R8, R9): every value the spec shifts, masks or
moves as bits is a bit vector of one of these widths. Rule numbers R<n> in comments are those of spec/. -/

namespace Sys2Proof

/-- A byte of the SPN state or of the key expansion (R11). -/
abbrev Byte := BitVec 8

/-- PORT_WIDTH: a host register, a command word, a word of the SPN key expansion (R8, R52, R80, R24). -/
abbrev Word := BitVec 32

/-- One 32-bit half of the Feistel block: F_HALF_BITS (R7). -/
abbrev Half := BitVec 32

/-- The Feistel block and the Feistel key: F_BLOCK_BITS and F_KEY_BITS (R7). -/
abbrev Block64 := BitVec 64

/-- One Feistel round key: F_SUBKEY_BITS (R7). -/
abbrev Subkey := BitVec 48

/-- One of the two rotating halves C and D of the Feistel key schedule: F_CD_BITS (R7). -/
abbrev CdHalf := BitVec 28

/-- The SPN block, the SPN key and one SPN round key: S_BLOCK_BITS and S_KEY_BITS (R7). -/
abbrev Block128 := BitVec 128

/-- A byte offset into the register window of WINDOW_BYTES = 0x400 bytes (R8, R51): ten bits name every offset the
platform's decoding of BASE lets through, and no other (R57). -/
abbrev Offset := BitVec 10

end Sys2Proof
end

