-- ==== Sys2Proof/Syntax.lean ====
section
/-! DEFINITION. The commands of CCA-CORE as syntax (30_encoding.md): one constructor of Instr per row of the opcode
table, the operation codes, the reasons a word is illegal, and a command as an assembler source line has it. -/

namespace Sys2Proof

/-- A legal command: one constructor per row of rule R82. The round operand is the 4-bit field RND, whose sixteen values
are all legal encodings for both commands that take one (R81, R87). -/
inductive Instr where
  /-- `NOP` (R118) -/
  | nop
  /-- `F_KS`, Feistel key schedule (R160) -/
  | fKs
  /-- `F_ENC`, Feistel block encryption (R161) -/
  | fEnc
  /-- `F_DEC`, Feistel block decryption (R162) -/
  | fDec
  /-- `F_IP`, initial permutation (R163) -/
  | fIp
  /-- `F_FP`, final permutation (R164) -/
  | fFp
  /-- `F_RND rnd`, one Feistel round with subkey rnd (R165) -/
  | fRnd (rnd : BitVec 4)
  /-- `F_SWAP`, the final half swap (R166) -/
  | fSwap
  /-- `S_KX`, SPN key expansion (R240) -/
  | sKx
  /-- `S_ENC`, SPN block encryption (R241) -/
  | sEnc
  /-- `S_DEC`, SPN block decryption (R242) -/
  | sDec
  /-- `S_SUB`, SubBytes (R243) -/
  | sSub
  /-- `S_ISUB`, InvSubBytes (R244) -/
  | sIsub
  /-- `S_SHR`, ShiftRows (R245) -/
  | sShr
  /-- `S_ISHR`, InvShiftRows (R246) -/
  | sIshr
  /-- `S_MIX`, MixColumns (R247) -/
  | sMix
  /-- `S_IMIX`, InvMixColumns (R248) -/
  | sImix
  /-- `S_ARK rnd`, AddRoundKey with round key rnd (R249) -/
  | sArk (rnd : BitVec 4)
  deriving DecidableEq, Repr

/-- The 18 operation codes (R82); their numbers stand in Decode.lean. -/
inductive Opcode where
  | nop | fKs | fEnc | fDec | fIp | fFp | fRnd | fSwap
  | sKx | sEnc | sDec | sSub | sIsub | sShr | sIshr | sMix | sImix | sArk
  deriving DecidableEq, Repr

/-- Why a 32-bit word is no command: the three clauses of rule R86. The hardware reports all three as ILLEGAL_CMD. -/
inductive Rejection where
  /-- (a) RSV = w[31:12] is not 0. -/
  | reservedBits
  /-- (b) OP = w[7:0] is none of the 18 operation codes (R85). -/
  | reservedOp
  /-- (c) RND = w[11:8] is not 0 although OP takes no round operand. -/
  | unexpectedRound
  deriving DecidableEq, Repr

/-- A command as a source line gives it to the assembler: `MNEMONIC` or `MNEMONIC rnd` (R89). -/
structure SourceCommand where
  op      : Opcode
  operand : Option Nat
  deriving DecidableEq, Repr

end Sys2Proof
end

