-- ==== Sys2Proof/WellFormed.lean ====
section
/-! DEFINITION. Which commands are well formed. An Instr has no ill-formed term: its one operand is a 4-bit field and
every value of the field is legal (R81, R87), so the check with content is the assembler's, on a source command (R89). -/

namespace Sys2Proof

/-- Every Instr is well formed: each operand value fits the field RND of the command word (R81). Written out for each
constructor, so that a new one cannot slip past. -/
def Instr.wellFormed : Instr → Bool
  | .nop | .fKs | .fEnc | .fDec | .fIp | .fFp | .fSwap => true
  | .sKx | .sEnc | .sDec | .sSub | .sIsub | .sShr | .sIshr | .sMix | .sImix => true
  | .fRnd rnd => rnd.toNat < 16
  | .sArk rnd => rnd.toNat < 16

/-- The operations that take a round operand (R80). -/
def Opcode.takesRound : Opcode → Bool
  | .fRnd | .sArk => true
  | .nop | .fKs | .fEnc | .fDec | .fIp | .fFp | .fSwap => false
  | .sKx | .sEnc | .sDec | .sSub | .sIsub | .sShr | .sIshr | .sMix | .sImix => false

/-- The assembler's check (R89): no operand except for F_RND and S_ARK, at most 15 for F_RND, at most 10 for S_ARK. -/
def SourceCommand.wellFormed (c : SourceCommand) : Bool :=
  match c.operand with
  | none => true
  | some r => c.op.takesRound && decide (r ≤ if c.op = .fRnd then 15 else 10)

end Sys2Proof
end

