-- ==== Sys2Proof/Decode.lean ====
section
/-! DEFINITION. The opcode table of rule R82, the decoder it gives, total on 32-bit words and naming what it rejects, and
the encoder of rule R88. A command word is one 32-bit host transaction: no byte order enters (R54, R80). -/

namespace Sys2Proof

/-- The number OP of an operation (R82). -/
def Opcode.value : Opcode → BitVec 8
  | .nop => 0x00
  | .fKs => 0x10
  | .fEnc => 0x11
  | .fDec => 0x12
  | .fIp => 0x13
  | .fFp => 0x14
  | .fRnd => 0x15
  | .fSwap => 0x16
  | .sKx => 0x20
  | .sEnc => 0x21
  | .sDec => 0x22
  | .sSub => 0x23
  | .sIsub => 0x24
  | .sShr => 0x25
  | .sIshr => 0x26
  | .sMix => 0x27
  | .sImix => 0x28
  | .sArk => 0x29

/-- One row of the opcode table: a word w selects it when `w & mask = pattern` (R82). -/
structure OpcodeRow where
  op      : Opcode
  pattern : Word
  mask    : Word
  deriving DecidableEq, Repr

/-- The rows of rule R82, in its order. -/
def opcodeTable : List OpcodeRow :=
  [⟨.nop, 0x00000000, 0xFFFFFFFF⟩,
   ⟨.fKs, 0x00000010, 0xFFFFFFFF⟩,
   ⟨.fEnc, 0x00000011, 0xFFFFFFFF⟩,
   ⟨.fDec, 0x00000012, 0xFFFFFFFF⟩,
   ⟨.fIp, 0x00000013, 0xFFFFFFFF⟩,
   ⟨.fFp, 0x00000014, 0xFFFFFFFF⟩,
   ⟨.fRnd, 0x00000015, 0xFFFFF0FF⟩,
   ⟨.fSwap, 0x00000016, 0xFFFFFFFF⟩,
   ⟨.sKx, 0x00000020, 0xFFFFFFFF⟩,
   ⟨.sEnc, 0x00000021, 0xFFFFFFFF⟩,
   ⟨.sDec, 0x00000022, 0xFFFFFFFF⟩,
   ⟨.sSub, 0x00000023, 0xFFFFFFFF⟩,
   ⟨.sIsub, 0x00000024, 0xFFFFFFFF⟩,
   ⟨.sShr, 0x00000025, 0xFFFFFFFF⟩,
   ⟨.sIshr, 0x00000026, 0xFFFFFFFF⟩,
   ⟨.sMix, 0x00000027, 0xFFFFFFFF⟩,
   ⟨.sImix, 0x00000028, 0xFFFFFFFF⟩,
   ⟨.sArk, 0x00000029, 0xFFFFF0FF⟩]

/-- Whether a word selects a row (R82). -/
def OpcodeRow.selects (r : OpcodeRow) (w : Word) : Bool := w &&& r.mask == r.pattern

/-- The fields of a command word (R80). -/
def fieldOp (w : Word) : BitVec 8 := w.extractLsb' 0 8
def fieldRnd (w : Word) : BitVec 4 := w.extractLsb' 8 4
def fieldRsv (w : Word) : BitVec 20 := w.extractLsb' 12 20

/-- The command of an operation and the word's RND field; RND is dropped where the operation takes none (R81). -/
def Instr.ofOpcode (op : Opcode) (rnd : BitVec 4) : Instr :=
  match op with
  | .nop => .nop
  | .fKs => .fKs
  | .fEnc => .fEnc
  | .fDec => .fDec
  | .fIp => .fIp
  | .fFp => .fFp
  | .fRnd => .fRnd rnd
  | .fSwap => .fSwap
  | .sKx => .sKx
  | .sEnc => .sEnc
  | .sDec => .sDec
  | .sSub => .sSub
  | .sIsub => .sIsub
  | .sShr => .sShr
  | .sIshr => .sIshr
  | .sMix => .sMix
  | .sImix => .sImix
  | .sArk => .sArk rnd

/-- The name of the first clause of rule R86 that an illegal word meets. -/
def rejection (w : Word) : Rejection :=
  if fieldRsv w ≠ 0 then .reservedBits
  else if opcodeTable.any (fun r => r.op.value == fieldOp w) then .unexpectedRound
  else .reservedOp

/-- The decoder: the command of the row the word selects, or the reason it selects none (R82, R84, R86). -/
def decode (w : Word) : Except Rejection Instr :=
  match opcodeTable.find? (fun r => r.selects w) with
  | some r => .ok (Instr.ofOpcode r.op (fieldRnd w))
  | none => .error (rejection w)

/-- The operation of a command. -/
def Instr.opcode : Instr → Opcode
  | .nop => .nop
  | .fKs => .fKs
  | .fEnc => .fEnc
  | .fDec => .fDec
  | .fIp => .fIp
  | .fFp => .fFp
  | .fRnd _ => .fRnd
  | .fSwap => .fSwap
  | .sKx => .sKx
  | .sEnc => .sEnc
  | .sDec => .sDec
  | .sSub => .sSub
  | .sIsub => .sIsub
  | .sShr => .sShr
  | .sIshr => .sIshr
  | .sMix => .sMix
  | .sImix => .sImix
  | .sArk _ => .sArk

/-- The round operand of a command, 0 for the commands that take none (R88). -/
def Instr.round : Instr → BitVec 4
  | .fRnd rnd => rnd
  | .sArk rnd => rnd
  | .nop | .fKs | .fEnc | .fDec | .fIp | .fFp | .fSwap => 0
  | .sKx | .sEnc | .sDec | .sSub | .sIsub | .sShr | .sIshr | .sMix | .sImix => 0

/-- `enc(op, rnd) = zext_32({rnd[3:0], op[7:0]})` (R88). -/
def encodeFields (op : BitVec 8) (rnd : BitVec 4) : Word := (rnd ++ op).setWidth 32

/-- The command word of a command (R88). -/
def encode (i : Instr) : Word := encodeFields i.opcode.value i.round

/-- The assembler: the word of a source command, none where it refuses it. A missing operand means operand 0 (R89). -/
def assemble (c : SourceCommand) : Option Word :=
  if c.wellFormed then some (encodeFields c.op.value (BitVec.ofNat 4 (c.operand.getD 0))) else none

/-- The decoder on a word numbered as spec/opcode_table.json numbers it. Every row has 32 bits and is one host
transaction; there is no longer instruction, so a wider word is none (R80). -/
def decodeTableWord (nbits w : Nat) : Option Instr :=
  if nbits ≤ 32 then (decode (BitVec.ofNat 32 (w % 2 ^ nbits))).toOption else none

end Sys2Proof
end

