-- ==== Sys2Proof/Config.lean ====
section
/-! DEFINITION. What an implementation of CCA-CORE fixes (00_scope.md rule R8): the shapes of the configuration tables
TBL_*, the open parameter BASE, and the free values, which no definition of this package gives a value. -/

namespace Sys2Proof

/-- One Feistel S-box, `[row][col]`: 4 rows of 16 values of 4 bits (R141). -/
abbrev SBox4x16 := Vector (Vector (BitVec 4) 16) 4

/-- A byte-to-byte table, `[high nibble][low nibble]` (R205, R206). -/
abbrev ByteTable := Vector (Vector Byte 16) 16

/-- A 4×4 matrix over GF(2^8), `[row][col]` (R211, R212). -/
abbrev Matrix4x4 := Vector (Vector Byte 4) 4

/-- TBL_PC1, TBL_PC2, TBL_IP, TBL_FP, TBL_E, TBL_P and TBL_S1 to TBL_S8 (R8). A permutation table lists, for output bit
j = 1, 2, ..., the number of the input bit it selects, both counted from 1 at the most significant end (R10). -/
structure FeistelTables where
  pc1    : Vector Nat 56
  pc2    : Vector Nat 48
  ip     : Vector Nat 64
  fp     : Vector Nat 64
  e      : Vector Nat 48
  p      : Vector Nat 32
  sboxes : Vector SBox4x16 8
  deriving DecidableEq, Repr

/-- TBL_SBOX, TBL_INVSBOX, TBL_RCON (entry 0 of the vector is Rcon[1], R220), TBL_MIX (R8) and TBL_INVMIX (R212). -/
structure SpnTables where
  sbox    : ByteTable
  invSbox : ByteTable
  rcon    : Vector Byte 10
  mix     : Matrix4x4
  invMix  : Matrix4x4
  deriving DecidableEq, Repr

/-- BASE: the address of the register window on the host bus, OPEN (R8, R51; I11). Nothing here gives it a value. -/
opaque Config.base : Nat

/-- ANY32: the value a read shows where the spec promises none (R59, R63; I1, I2). The argument is the number of the
draw, which State counts, so that two such reads are two independent values. A free value: it has no body. -/
opaque Config.any32 : Nat → Word

/-- The 48 bits a Feistel round-key entry shows to a keyed command while the entry is empty (R23, I3): a free value for
each draw number and each entry. With FKV = 1 no entry is empty in any state a run reaches (R116). -/
opaque Config.anySubkey : Nat → Nat → Subkey

/-- The same for an SPN round-key word (R24, I3). -/
opaque Config.anyKeyWord : Nat → Nat → Word

end Sys2Proof
end

