-- ==== Sys2Proof/Machine/State.lean ====
section
/-! DEFINITION. The state of CCA-CORE (10_state.md), what reaches it from outside, why a step can stop (it cannot), and the
state after reset (R37). -/

namespace Sys2Proof.Machine

/-- The result codes of STATUS.ERR (R31). Codes 4 to 15 are reserved and never produced (I7): there is no value for
them. -/
inductive ErrCode where
  /-- 0: the command completed and wrote its results. -/
  | ok
  /-- 1: the command word matches no row of the opcode table (R301). -/
  | illegalCmd
  /-- 2: a keyed command was issued without its schedule (R302). -/
  | noSchedule
  /-- 3: S_ARK with RND > 10 (R303). -/
  | badRound
  deriving DecidableEq, Repr

/-- What happens next to the block, in the one total order of host transactions, core steps and resets (R16, R50, R67,
R340). Size is in bytes. -/
inductive Event where
  /-- `MemRead(off, size)` by the host. -/
  | read (off : Offset) (size : Nat)
  /-- `MemWrite(off, size, v)` by the host. -/
  | write (off : Offset) (size : Nat) (v : Word)
  /-- The core agent's turn: its completion step where BUSY = 1 (R113), nothing where the block is idle. -/
  | core
  /-- The reset event (R340). -/
  | reset
  deriving DecidableEq, Repr

/-- The one response of a host transaction (R50). -/
inductive Response where
  /-- `OK` with 32-bit read data. -/
  | data (v : Word)
  /-- `OK` for a write, the discarded write of a busy block included (log entry 9). -/
  | written
  /-- `BusError` (R58, R305). -/
  | busError
  deriving DecidableEq, Repr

/-- The state. The first twelve fields are the spec's; `inputs`, `responses` and `draws` are the model's own (log entries
1, 2, 3). STATUS is not stored: it is computed from its fields (Flags.lean). -/
structure State where
  /-- KEY, 128 bits (R20). -/
  key  : Block128
  /-- DATA, 128 bits (R21, R22). -/
  data : Block128
  /-- FRK, 16 entries of 48 bits, each a value or empty (R23). -/
  frk  : Vector (Option Subkey) 16
  /-- SRK, 44 words, each a value or empty (R24). -/
  srk  : Vector (Option Word) 44
  /-- FKV (R25). -/
  fkv  : Bool
  /-- SKV (R26). -/
  skv  : Bool
  /-- STATUS.BUSY (R28). -/
  busy : Bool
  /-- STATUS.DONE (R29). -/
  done : Bool
  /-- STATUS.OVR (R30). -/
  ovr  : Bool
  /-- STATUS.ERR (R31). -/
  err  : ErrCode
  /-- CMDL, the word of the last accepted command (R32). -/
  cmdl : Word
  /-- What happens next, in order: the outside world's transactions and resets, and where between them the core has its
  turn (R67, R308). When it is empty the core has every turn (R120). -/
  inputs    : List Event
  /-- The responses given to the host so far, the latest first (R50). -/
  responses : List Response
  /-- How many free values have been drawn: the argument of the next one (R63). -/
  draws     : Nat
  deriving DecidableEq, Repr

/-- Why a step stops with a fault: it never does. No error stops the block (R300): a failed command completes with a
code in STATUS.ERR, and a bad access is answered `BusError`. The type has no value. -/
inductive Fault where
  deriving DecidableEq, Repr

/-- Why a step has no meaning. -/
inductive Refusal where
  /-- Raised by an arm of `exec` whose command has no meaning yet; no arm does. Safe: the machine stops. -/
  | notModelled (mnemonic : String)
  deriving DecidableEq, Repr

/-- The state after reset: every element as rule R37 gives it, and nothing from outside waiting. -/
def State.reset : State where
  key := 0
  data := 0
  frk := Vector.replicate 16 none
  srk := Vector.replicate 44 none
  fkv := false
  skv := false
  busy := false
  done := false
  ovr := false
  err := .ok
  cmdl := 0
  inputs := []
  responses := []
  draws := 0

end Sys2Proof.Machine
end

