-- ==== Sys2Proof/Machine/Flags.lean ====
section
/-! DEFINITION. STATUS as the host reads it (R27) and the updates of its fields at acceptance, completion, overrun and a
STATUS write (R111, R113, R30, R61). There are no other flags (R36). -/

namespace Sys2Proof.Machine

/-- The number of a result code (R31). -/
def ErrCode.code : ErrCode → BitVec 4
  | .ok => 0
  | .illegalCmd => 1
  | .noSchedule => 2
  | .badRound => 3

/-- `{22'b0, SKV, FKV, ERR[3:0], 1'b0, OVR, DONE, BUSY}` (R27, R59). -/
def statusWord (s : State) : Word :=
  (0 : BitVec 22) ++ BitVec.ofBool s.skv ++ BitVec.ofBool s.fkv ++ s.err.code ++ (0 : BitVec 1) ++
    BitVec.ofBool s.ovr ++ BitVec.ofBool s.done ++ BitVec.ofBool s.busy

/-- Acceptance of a command word by an idle block (R111). It does not check the word. -/
def accept (v : Word) (s : State) : State := { s with cmdl := v, busy := true, done := false, err := .ok }

/-- The status part of a completion: ERR <- code, BUSY <- 0, DONE <- 1 (R113). -/
def finish (code : ErrCode) (s : State) : State := { s with err := code, busy := false, done := true }

/-- A write that arrived while BUSY = 1 is discarded: OVR <- 1 (R30, R304). -/
def overrun (s : State) : State := { s with ovr := true }

/-- A write to STATUS: bit 2 clears OVR, every other bit is ignored (R61). -/
def writeStatus (v : Word) (s : State) : State := { s with ovr := s.ovr && !v.getLsbD 2 }

end Sys2Proof.Machine
end

