-- ==== Sys2Proof/Machine/Bits.lean ====
section
/-! DEFINITION. The bit selections of 00_scope.md rules R10 and R11: DES bit numbering, permutation tables, and the
byte views of 32-bit and 128-bit values. -/

namespace Sys2Proof.Machine

/-- `dbit_N(x, n) = x[N - n]`: bit n in DES numbering, bit 1 the most significant (R10). The rule defines it for 1 ≤ n ≤ N
only. Outside, which no table set that keeps the constraints of R131 reaches, the value is the model's choice: false for
n = 0, bit 0 for n > N (DESIGN CHOICE, log entry 17). -/
def dbit {N : Nat} (x : BitVec N) (n : Nat) : Bool := x.getLsbD (N - n)

/-- `Perm_T(x)`: output bit j (DES numbering) is input bit T[j] (R10). -/
def perm {N m : Nat} (T : Vector Nat m) (x : BitVec N) : BitVec m := BitVec.ofFnBE fun j => dbit x T[j]

/-- `byte_i(v) = v[127-8i : 120-8i]` (R11). -/
def byteOf (v : Block128) (i : Nat) : Byte := v.extractLsb' (120 - 8 * i) 8

/-- `wbyte_k(w) = w[31-8k : 24-8k]` (R11). -/
def wbyte (w : Word) (k : Nat) : Byte := w.extractLsb' (24 - 8 * k) 8

/-- The word of the four bytes b 0, b 1, b 2, b 3, in order (R11). -/
def wordOfBytes (b : Nat → Byte) : Word := b 0 ++ b 1 ++ b 2 ++ b 3

/-- Word k of a 128-bit value, most significant first: v[127-32k : 96-32k] (R20, R21, R54). -/
def wordOf (v : Block128) (k : Nat) : Word := v.extractLsb' (96 - 32 * k) 32

/-- The 128-bit value of the four words w 0, w 1, w 2, w 3, the first the most significant (R54). -/
def ofWords (w : Nat → Word) : Block128 := w 0 ++ w 1 ++ w 2 ++ w 3

/-- The SPN state view: S[r][c] = byte_{r+4c} (R22). -/
def cell (v : Block128) (r c : Nat) : Byte := byteOf v (r + 4 * c)

/-- The block whose state view is S: byte i is S[i mod 4][i / 4], so word c is the column c (R22). -/
def ofCells (S : Nat → Nat → Byte) : Block128 := ofWords fun c => wordOfBytes fun r => S r c

end Sys2Proof.Machine
end

