-- ==== Sys2Proof/Machine/Operands.lean ====
section
/-! DEFINITION. The operand views of KEY, DATA, FRK and SRK that the commands and the host port use (R20 to R24). No
command names a register (R33). -/

namespace Sys2Proof.Machine

/-- FKEY = KEY[127:64] (R20). -/
def State.fkey (s : State) : Block64 := s.key.extractLsb' 64 64

/-- FBLK = DATA[127:64] (R21). -/
def State.fblk (s : State) : Block64 := s.data.extractLsb' 64 64

/-- FBLK <- x; DATA[63:0] keeps its value (R21). -/
def State.setFblk (s : State) (x : Block64) : State := { s with data := x ++ s.data.extractLsb' 0 64 }

/-- DATA <- S, the SPN state written back through the view of rule R22. -/
def State.setData (s : State) (S : Block128) : State := { s with data := S }

/-- v with word k replaced: v[127-32k : 96-32k] <- w (R60, R64). -/
def setWord (v : Block128) (k : Nat) (w : Word) : Block128 := ofWords fun j => if j = k then w else wordOf v j

/-- The subkey FRK[i] a keyed command sees: the entry's value, or a free value while the entry is empty (R23, log entry
6). -/
def State.subkey (s : State) (i : Fin 16) : Subkey := s.frk[i].getD (Config.anySubkey s.draws i)

/-- All of FRK as a keyed command sees it: (FRK[0], ..., FRK[15]). -/
def State.subkeys (s : State) : Vector Subkey 16 := Vector.ofFn s.subkey

/-- The word SRK[j] a keyed command sees (R24, log entry 6). -/
def State.expandedWord (s : State) (j : Fin 44) : Word := s.srk[j].getD (Config.anyKeyWord s.draws j)

/-- All of SRK as a keyed command sees it. -/
def State.expandedKey (s : State) : Vector Word 44 := Vector.ofFn s.expandedWord

/-- Every entry of a round-key file holds a value. -/
def full {α : Type} {n : Nat} (file : Vector (Option α) n) : Bool := file.toList.all Option.isSome

/-- The next free value is a new one where the last use drew one. -/
def State.drew (s : State) (used : Bool) : State := { s with draws := if used then s.draws + 1 else s.draws }

end Sys2Proof.Machine
end

