-- ==== Sys2Proof/Machine/Ops.lean ====
section
/-! DEFINITION. The shared shapes of a command's completion (40_command_lifecycle.md). CCA-CORE takes no trap and saves
nothing: the only way a command fails is to complete with a code and no other effect (R117, R309). -/

namespace Sys2Proof.Machine

/-- How every meaning answers. -/
abbrev Result := Host.Outcome State Fault Refusal

/-- The command completes with ERR = OK after its effect (R113, R121). -/
def completes (effect : State → State) (s : State) : Result := .next (finish .ok (effect s))

/-- The command completes with a nonzero code and no effect (R117): the one failure of the block. -/
def fails (code : ErrCode) (s : State) : Result := .next (finish code s)

/-- A Feistel command that needs the schedule: NO_SCHEDULE where FKV = 0 (R114, R116). -/
def withFeistelSchedule (effect : State → State) (s : State) : Result :=
  if s.fkv then completes effect s else fails .noSchedule s

/-- An SPN command that needs the schedule: NO_SCHEDULE where SKV = 0 (R114, R116). -/
def withSpnSchedule (effect : State → State) (s : State) : Result :=
  if s.skv then completes effect s else fails .noSchedule s

end Sys2Proof.Machine
end

