-- ==== Sys2Proof/Machine/Control.lean ====
section
/-! DEFINITION. The control group of the opcode map: NOP (40_command_lifecycle.md section 2). -/

namespace Sys2Proof.Machine

/-- NOP: no effect beyond the lifecycle flags (R118). -/
def execNop (s : State) : Result := completes (fun s => s) s

end Sys2Proof.Machine
end

