-- ==== Sys2Proof/Machine/FeistelFn.lean ====
section
/-! DEFINITION. The pure functions of the Feistel engine (41_feistel.md section 1): key schedule, round function F, round,
block transform. Each takes the table set as an argument (R8, R131); the machine passes `feistelTables`. -/

namespace Sys2Proof.Machine

/-- SHIFT[n] for key-schedule round n in 1..=16 (R133; 90_conflicts.md C4). -/
def shiftAmount (n : Nat) : Nat := if n = 1 ∨ n = 2 ∨ n = 9 ∨ n = 16 then 1 else 2

/-- `rotl28(x, s)`: cyclic left rotation (R134). -/
def rotl28 (x : CdHalf) (s : Nat) : CdHalf := x.rotateLeft s

/-- (C, D) after n rounds of the key schedule: the halves of Perm_PC1(k), rotated cumulatively (R136;
90_conflicts.md C1). -/
def cdAfter (t : FeistelTables) (k : Block64) : Nat → CdHalf × CdHalf
  | 0 => ((perm t.pc1 k).extractLsb' 28 28, (perm t.pc1 k).extractLsb' 0 28)
  | n + 1 => (rotl28 (cdAfter t k n).1 (shiftAmount (n + 1)), rotl28 (cdAfter t k n).2 (shiftAmount (n + 1)))

/-- The subkey K[n-1] of key-schedule round n in 1..=16 (R136). -/
def subkeyOfRound (t : FeistelTables) (k : Block64) (n : Nat) : Subkey :=
  perm t.pc2 ((cdAfter t k n).1 ++ (cdAfter t k n).2)

/-- `KS(k)`: the 16 subkeys of a 64-bit key (R136). -/
def keySchedule (t : FeistelTables) (k : Block64) : Vector Subkey 16 :=
  Vector.ofFn fun i => subkeyOfRound t k (i.val + 1)

/-- `SLOOK(m, g)`, with m counted from 0: row {g[5], g[0]}, column g[4:1] (R142). -/
def sLookup (t : FeistelTables) (m : Fin 8) (g : BitVec 6) : BitVec 4 :=
  let row : BitVec 2 := g.extractLsb' 5 1 ++ g.extractLsb' 0 1
  let col : BitVec 4 := g.extractLsb' 1 4
  (t.sboxes[m][row.toNat]'(row.isLt))[col.toNat]'(col.isLt)

/-- The eight lookups of F: group m + 1 is x[47-6m : 42-6m], and o_1 is the most significant nibble (R144). -/
def sLayer (t : FeistelTables) (x : BitVec 48) : Half :=
  sLookup t 0 (x.extractLsb' 42 6) ++ sLookup t 1 (x.extractLsb' 36 6) ++ sLookup t 2 (x.extractLsb' 30 6) ++
  sLookup t 3 (x.extractLsb' 24 6) ++ sLookup t 4 (x.extractLsb' 18 6) ++ sLookup t 5 (x.extractLsb' 12 6) ++
  sLookup t 6 (x.extractLsb' 6 6) ++ sLookup t 7 (x.extractLsb' 0 6)

/-- The round function F(R, K) (R144). -/
def roundF (t : FeistelTables) (r : Half) (k : Subkey) : Half := perm t.p (sLayer t (perm t.e r ^^^ k))

/-- `Round(L, R, K) = (R, L ^ F(R, K))` (R145). -/
def feistelRound (t : FeistelTables) (lr : Half × Half) (k : Subkey) : Half × Half :=
  (lr.2, lr.1 ^^^ roundF t lr.2 k)

/-- The rounds of a sequence of subkeys, in order, on the halves (L, R) (R146 step 3). -/
def feistelRounds (t : FeistelTables) (lr : Half × Half) (ks : List Subkey) : Half × Half :=
  ks.foldl (feistelRound t) lr

/-- The halves (L, R) of a block: L the left one (R146 step 2; R21). -/
def halves (x : Block64) : Half × Half := (x.extractLsb' 32 32, x.extractLsb' 0 32)

/-- `FeistelBlock(x, ks)`: IP, the rounds, the final swap, FP (R146). -/
def feistelBlock (t : FeistelTables) (x : Block64) (ks : Vector Subkey 16) : Block64 :=
  let lr := feistelRounds t (halves (perm t.ip x)) ks.toList
  perm t.fp (lr.2 ++ lr.1)

/-- `FeistelEnc(x, k)` (R146). -/
def feistelEnc (t : FeistelTables) (x k : Block64) : Block64 := feistelBlock t x (keySchedule t k)

/-- `FeistelDec(x, k)`: the same transform under the subkeys in reverse order (R147). -/
def feistelDec (t : FeistelTables) (x k : Block64) : Block64 := feistelBlock t x (keySchedule t k).reverse

end Sys2Proof.Machine
end

