-- ==== Sys2Proof/Machine/Feistel.lean ====
section
/-! DEFINITION. The commands of the Feistel engine (41_feistel.md section 2). Every one leaves DATA[63:0] unchanged. -/

namespace Sys2Proof.Machine

/-- F_KS: FRK <- KS(FKEY), FKV <- 1 (R160). -/
def execFKs (s : State) : Result :=
  completes (fun s => { s with frk := (keySchedule feistelTables s.fkey).map some, fkv := true }) s

/-- F_ENC: FBLK <- FeistelBlock(FBLK, FRK in order) (R161). -/
def execFEnc (s : State) : Result :=
  withFeistelSchedule (fun s => (s.setFblk (feistelBlock feistelTables s.fblk s.subkeys)).drew !(full s.frk)) s

/-- F_DEC: FBLK <- FeistelBlock(FBLK, FRK in reverse order) (R162). -/
def execFDec (s : State) : Result :=
  withFeistelSchedule
    (fun s => (s.setFblk (feistelBlock feistelTables s.fblk s.subkeys.reverse)).drew !(full s.frk)) s

/-- F_IP: FBLK <- Perm_IP(FBLK) (R163). -/
def execFIp (s : State) : Result := completes (fun s => s.setFblk (perm feistelTables.ip s.fblk)) s

/-- F_FP: FBLK <- Perm_FP(FBLK), without the swap (R164). -/
def execFFp (s : State) : Result := completes (fun s => s.setFblk (perm feistelTables.fp s.fblk)) s

/-- The effect of F_RND: one round with FRK[RND] on the halves L = DATA[127:96], R = DATA[95:64] (R165). -/
def feistelRoundEffect (rnd : BitVec 4) (s : State) : State :=
  let lr := feistelRound feistelTables (halves s.fblk) (s.subkey rnd.toFin)
  (s.setFblk (lr.1 ++ lr.2)).drew s.frk[rnd.toFin].isNone

/-- F_RND rnd; all sixteen values of rnd are legal (R165, R87). -/
def execFRnd (rnd : BitVec 4) (s : State) : Result := withFeistelSchedule (feistelRoundEffect rnd) s

/-- F_SWAP: FBLK <- {FBLK[31:0], FBLK[63:32]} (R166). -/
def execFSwap (s : State) : Result :=
  completes (fun s => s.setFblk ((halves s.fblk).2 ++ (halves s.fblk).1)) s

end Sys2Proof.Machine
end

