-- ==== Sys2Proof/Machine/SpnFn.lean ====
section
/-! DEFINITION. The pure functions of the SPN engine (42_spn.md section 1): GF(2^8) arithmetic, the four layers and their
inverses, the key expansion, the block transforms. Each that reads a table takes the table set as an argument (R8); the
machine passes `spnTables`. A state is a 128-bit block read through `cell` (R22). -/

namespace Sys2Proof.Machine

/-- Multiplication by x modulo 0x11B (R202). -/
def xtime (a : Byte) : Byte := if a.getLsbD 7 then (a <<< 1) ^^^ 0x1B else a <<< 1

/-- The loop of `gmul` over the multiplier's bits, least significant first: n bits are left (R203). -/
def gmulLoop : Nat → Byte → Byte → Byte → Byte
  | 0, _, _, p => p
  | n + 1, a, b, p => gmulLoop n (xtime a) (b >>> 1) (if b.getLsbD 0 then p ^^^ a else p)

/-- `gmul(a, b)`: multiplication in GF(2^8) (R203). -/
def gmul (a b : Byte) : Byte := gmulLoop 8 a b 0

/-- A byte table's entry: row the high nibble, column the low nibble (R205, R206). -/
def byteLookup (t : ByteTable) (a : Byte) : Byte :=
  (t[(a.extractLsb' 4 4).toNat]'((a.extractLsb' 4 4).isLt))[(a.extractLsb' 0 4).toNat]'((a.extractLsb' 0 4).isLt)

/-- `SubBytes` (R207). -/
def subBytes (t : SpnTables) (S : Block128) : Block128 := ofCells fun r c => byteLookup t.sbox (cell S r c)

/-- `InvSubBytes` (R208). -/
def invSubBytes (t : SpnTables) (S : Block128) : Block128 := ofCells fun r c => byteLookup t.invSbox (cell S r c)

/-- `ShiftRows`: row r moves left by r (R209). -/
def shiftRows (S : Block128) : Block128 := ofCells fun r c => cell S r ((c + r) % 4)

/-- `InvShiftRows`: row r moves right by r; c - r mod 4 is written c + 4 - r, for r in 0..4 (R210). -/
def invShiftRows (S : Block128) : Block128 := ofCells fun r c => cell S r ((c + 4 - r) % 4)

/-- Row r of a 4×4 matrix times the column (x 0, x 1, x 2, x 3) over GF(2^8) (R211, R212). -/
def rowTimesColumn (m : Matrix4x4) (r : Nat) (x : Nat → Byte) : Byte :=
  let row := m.getD r (Vector.replicate 4 0)
  gmul row[0] (x 0) ^^^ gmul row[1] (x 1) ^^^ gmul row[2] (x 2) ^^^ gmul row[3] (x 3)

/-- `MixColumns` (R211). -/
def mixColumns (t : SpnTables) (S : Block128) : Block128 :=
  ofCells fun r c => rowTimesColumn t.mix r fun k => cell S k c

/-- `InvMixColumns` (R212). -/
def invMixColumns (t : SpnTables) (S : Block128) : Block128 :=
  ofCells fun r c => rowTimesColumn t.invMix r fun k => cell S k c

/-- `AddRoundKey`: every state byte XOR the round-key byte of the same index, which is the XOR of the two blocks
(R214). -/
def addRoundKey (S rk : Block128) : Block128 := S ^^^ rk

/-- `RotWord` (R221). -/
def rotWord (t : Word) : Word := t.extractLsb' 0 24 ++ t.extractLsb' 24 8

/-- `SubWord` (R222). -/
def subWord (t : SpnTables) (w : Word) : Word := wordOfBytes fun k => byteLookup t.sbox (wbyte w k)

/-- `AddRcon(t, j)` for j in 1..=10: only byte 0 changes (R223). -/
def addRcon (t : SpnTables) (w : Word) (j : Nat) : Word := w ^^^ (t.rcon.getD (j - 1) 0 ++ (0 : BitVec 24))

/-- `temp` of the recursion step i, from w[i-1] (R225). -/
def expandTemp (t : SpnTables) (i : Nat) (prev : Word) : Word :=
  if i % 4 = 0 then addRcon t (subWord t (rotWord prev)) (i / 4) else prev

/-- w[i] from the words w[0..i): the key's own words for i < 4, and w[i-4] ^ temp after (R224, R225). -/
def nextWord (t : SpnTables) (key : Block128) (ws : List Word) (i : Nat) : Word :=
  if i < 4 then wordOf key i else ws.getD (i - 4) 0 ^^^ expandTemp t i (ws.getD (i - 1) 0)

/-- The words w[0..n), in increasing order (R225). -/
def expandedWords (t : SpnTables) (key : Block128) : Nat → List Word
  | 0 => []
  | n + 1 => expandedWords t key n ++ [nextWord t key (expandedWords t key n) n]

theorem expandedWords_length (t : SpnTables) (key : Block128) (n : Nat) : (expandedWords t key n).length = n := by
  induction n with
  | zero => rfl
  | succ n ih => simp [expandedWords, ih]

/-- `W(key)`: the 44 expanded words (R226). -/
def keyExpansion (t : SpnTables) (key : Block128) : Vector Word 44 :=
  ⟨(expandedWords t key 44).toArray, by simp [expandedWords_length]⟩

/-- `RK(n)` of 44 words, for n in 0..=10: {w[4n], w[4n+1], w[4n+2], w[4n+3]} (R24, R226). -/
def roundKey (w : Vector Word 44) (n : Nat) : Block128 := ofWords fun c => w.getD (4 * n + c) 0

/-- Encryption round n in 1..=9 (R230 step 3). -/
def spnRound (t : SpnTables) (w : Vector Word 44) (S : Block128) (n : Nat) : Block128 :=
  addRoundKey (mixColumns t (shiftRows (subBytes t S))) (roundKey w n)

/-- `SpnEnc(S, RK)` (R230): no MixColumns in the last round. -/
def spnEnc (t : SpnTables) (w : Vector Word 44) (S : Block128) : Block128 :=
  let S := addRoundKey S (roundKey w 0)
  let S := [1, 2, 3, 4, 5, 6, 7, 8, 9].foldl (spnRound t w) S
  addRoundKey (shiftRows (subBytes t S)) (roundKey w 10)

/-- Decryption round n in 9..=1 (R231). -/
def spnInvRound (t : SpnTables) (w : Vector Word 44) (S : Block128) (n : Nat) : Block128 :=
  invMixColumns t (addRoundKey (invSubBytes t (invShiftRows S)) (roundKey w n))

/-- `SpnDec(S, RK)` (R231): InvMixColumns after AddRoundKey, and none in the last round. -/
def spnDec (t : SpnTables) (w : Vector Word 44) (S : Block128) : Block128 :=
  let S := addRoundKey S (roundKey w 10)
  let S := [9, 8, 7, 6, 5, 4, 3, 2, 1].foldl (spnInvRound t w) S
  addRoundKey (invSubBytes t (invShiftRows S)) (roundKey w 0)

end Sys2Proof.Machine
end

