-- ==== Sys2Proof/Machine/Spn.lean ====
section
/-! DEFINITION. The commands of the SPN engine (42_spn.md section 2). Each one that writes DATA writes all of it. -/

namespace Sys2Proof.Machine

/-- S_KX: SRK <- W(KEY), SKV <- 1 (R240). -/
def execSKx (s : State) : Result :=
  completes (fun s => { s with srk := (keyExpansion spnTables s.key).map some, skv := true }) s

/-- S_ENC: S <- SpnEnc(S, RK) (R241). -/
def execSEnc (s : State) : Result :=
  withSpnSchedule (fun s => (s.setData (spnEnc spnTables s.expandedKey s.data)).drew !(full s.srk)) s

/-- S_DEC: S <- SpnDec(S, RK) (R242). -/
def execSDec (s : State) : Result :=
  withSpnSchedule (fun s => (s.setData (spnDec spnTables s.expandedKey s.data)).drew !(full s.srk)) s

/-- S_SUB (R243). -/
def execSSub (s : State) : Result := completes (fun s => s.setData (subBytes spnTables s.data)) s

/-- S_ISUB (R244). -/
def execSIsub (s : State) : Result := completes (fun s => s.setData (invSubBytes spnTables s.data)) s

/-- S_SHR (R245). -/
def execSShr (s : State) : Result := completes (fun s => s.setData (shiftRows s.data)) s

/-- S_ISHR (R246). -/
def execSIshr (s : State) : Result := completes (fun s => s.setData (invShiftRows s.data)) s

/-- S_MIX (R247). -/
def execSMix (s : State) : Result := completes (fun s => s.setData (mixColumns spnTables s.data)) s

/-- S_IMIX (R248). -/
def execSImix (s : State) : Result := completes (fun s => s.setData (invMixColumns spnTables s.data)) s

/-- The four words SRK[4·RND .. 4·RND+4) all hold values. -/
def roundKeyHeld (n : Nat) (s : State) : Bool := (List.range 4).all fun c => (s.srk.getD (4 * n + c) none).isSome

/-- The effect of S_ARK for a round number in 0..=10: S <- AddRoundKey(S, RK(RND)) (R249). -/
def addRoundKeyEffect (n : Nat) (s : State) : State :=
  (s.setData (addRoundKey s.data (roundKey s.expandedKey n))).drew !(roundKeyHeld n s)

/-- S_ARK rnd: BAD_ROUND above 10, before the schedule check (R249, R87, R119). -/
def execSArk (rnd : BitVec 4) (s : State) : Result :=
  if 10 < rnd.toNat then fails .badRound s else withSpnSchedule (addRoundKeyEffect rnd.toNat) s

end Sys2Proof.Machine
end

