-- ==== Sys2Proof/Machine/Dispatch.lean ====
section
/-! DEFINITION. The completion of a legal command: one arm per constructor of Instr, one meaning per arm (R114, R82). -/

namespace Sys2Proof.Machine

def exec (i : Instr) (s : State) : Host.Outcome State Fault Refusal :=
  match i with
  -- control
  | .nop => Sys2Proof.Machine.execNop s
  -- Feistel engine
  | .fKs => Sys2Proof.Machine.execFKs s
  | .fEnc => Sys2Proof.Machine.execFEnc s
  | .fDec => Sys2Proof.Machine.execFDec s
  | .fIp => Sys2Proof.Machine.execFIp s
  | .fFp => Sys2Proof.Machine.execFFp s
  | .fRnd rnd => Sys2Proof.Machine.execFRnd rnd s
  | .fSwap => Sys2Proof.Machine.execFSwap s
  -- SPN engine
  | .sKx => Sys2Proof.Machine.execSKx s
  | .sEnc => Sys2Proof.Machine.execSEnc s
  | .sDec => Sys2Proof.Machine.execSDec s
  | .sSub => Sys2Proof.Machine.execSSub s
  | .sIsub => Sys2Proof.Machine.execSIsub s
  | .sShr => Sys2Proof.Machine.execSShr s
  | .sIshr => Sys2Proof.Machine.execSIshr s
  | .sMix => Sys2Proof.Machine.execSMix s
  | .sImix => Sys2Proof.Machine.execSImix s
  | .sArk rnd => Sys2Proof.Machine.execSArk rnd s

end Sys2Proof.Machine
end

