-- ==== Sys2Proof/Machine/Port.lean ====
section
/-! DEFINITION. The host port (20_memory.md): the register map, the read and write functions, and the response of a
transaction. It is CCA-CORE's one address space (R51); there is no other memory. -/

namespace Sys2Proof.Machine

/-- The registers of the window (R52, R90). -/
inductive PortReg where
  | cmd
  | status
  | key (k : Fin 4)
  | data (k : Fin 4)
  | frkh (i : Fin 16)
  | frkl (i : Fin 16)
  | srkw (j : Fin 44)
  deriving DecidableEq, Repr

/-- The byte offset of a register (R52, R90). -/
def PortReg.offset : PortReg → Offset
  | .cmd => 0x000
  | .status => 0x004
  | .key k => BitVec.ofNat 10 (0x010 + 4 * k)
  | .data k => BitVec.ofNat 10 (0x020 + 4 * k)
  | .frkh i => BitVec.ofNat 10 (0x100 + 8 * i)
  | .frkl i => BitVec.ofNat 10 (0x104 + 8 * i)
  | .srkw j => BitVec.ofNat 10 (0x200 + 4 * j)

/-- The register at a byte offset; none where the offset is not a multiple of 4 or is unmapped (R52, R53, R57). -/
def regAt (off : Offset) : Option PortReg :=
  let n := off.toNat
  if n % 4 ≠ 0 then none
  else if n = 0x000 then some .cmd
  else if n = 0x004 then some .status
  else if h : 0x010 ≤ n ∧ n < 0x020 then some (.key ⟨(n - 0x010) / 4, by omega⟩)
  else if h : 0x020 ≤ n ∧ n < 0x030 then some (.data ⟨(n - 0x020) / 4, by omega⟩)
  else if h : 0x100 ≤ n ∧ n < 0x180 then
    if n % 8 = 0 then some (.frkh ⟨(n - 0x100) / 8, by omega⟩) else some (.frkl ⟨(n - 0x100) / 8, by omega⟩)
  else if h : 0x200 ≤ n ∧ n < 0x2B0 then some (.srkw ⟨(n - 0x200) / 4, by omega⟩)
  else none

/-- The platform's decoding of a bus address: the offset of an address inside the window at BASE; none is another
block's business (R8, R51, R57). -/
def busOffset (addr : Nat) : Option Offset :=
  if Config.base ≤ addr ∧ addr < Config.base + 0x400 then some (BitVec.ofNat 10 (addr - Config.base)) else none

/-- A read answered ANY32: a fresh free value (R59, R63). -/
def drawRead (s : State) : Response × State := (.data (Config.any32 s.draws), { s with draws := s.draws + 1 })

/-- A round-key window's answer: the entry's word, or ANY32 while BUSY = 1 or the entry is empty (R55, R56, R63). -/
def windowRead (entry : Option Word) (s : State) : Response × State :=
  if s.busy then drawRead s
  else match entry with
    | some v => (.data v, s)
    | none => drawRead s

/-- The read function of rule R59 on a mapped register. -/
def readReg (r : PortReg) (s : State) : Response × State :=
  match r with
  | .cmd => (.data s.cmdl, s)
  | .status => (.data (statusWord s), s)
  | .key k => (.data (wordOf s.key k), s)
  | .data k => if s.busy then drawRead s else (.data (wordOf s.data k), s)
  | .frkh i => windowRead (s.frk[i].map fun k => (k.extractLsb' 32 16).setWidth 32) s
  | .frkl i => windowRead (s.frk[i].map fun k => k.extractLsb' 0 32) s
  | .srkw j => windowRead s.srk[j] s

/-- A write to KEYk of an idle block: SKV <- 0, and FKV <- 0 for k = 0, 1, whatever the value (R60). -/
def writeKey (k : Fin 4) (v : Word) (s : State) : State :=
  { s with key := setWord s.key k v, skv := false, fkv := s.fkv && decide (2 ≤ k.val) }

/-- A write to DATAk of an idle block (R64). -/
def writeData (k : Fin 4) (v : Word) (s : State) : State := { s with data := setWord s.data k v }

/-- The write of CMD, KEYk or DATAk: discarded with OVR <- 1 while BUSY = 1 (R60, R62, R64). -/
def unlessBusy (write : State → State) (s : State) : Response × State :=
  (.written, if s.busy then overrun s else write s)

/-- A write to a mapped register (R60, R61, R62, R64, R65). -/
def writeReg (r : PortReg) (v : Word) (s : State) : Response × State :=
  match r with
  | .cmd => unlessBusy (accept v) s
  | .status => (.written, writeStatus v s)
  | .key k => unlessBusy (writeKey k v) s
  | .data k => unlessBusy (writeData k v) s
  | .frkh _ => (.busError, s)
  | .frkl _ => (.busError, s)
  | .srkw _ => (.busError, s)

/-- The access check of a transaction: 4 bytes at a mapped, aligned offset, or `BusError` with no state change (R53, R57,
R58). -/
def access (off : Offset) (size : Nat) (act : PortReg → State → Response × State) (s : State) : Response × State :=
  if size = 4 then
    match regAt off with
    | some r => act r s
    | none => (.busError, s)
  else (.busError, s)

/-- `MemRead(off, size)` (R50, R59). -/
def memRead (off : Offset) (size : Nat) (s : State) : Response × State := access off size readReg s

/-- `MemWrite(off, size, v)` (R50). -/
def memWrite (off : Offset) (size : Nat) (v : Word) (s : State) : Response × State :=
  access off size (fun r => writeReg r v) s

/-- The transaction's one response goes to the host (R50). -/
def respond (p : Response × State) : State := { p.2 with responses := p.1 :: p.2.responses }

end Sys2Proof.Machine
end

