-- ==== Sys2Proof/Machine/Sequencer.lean ====
section
/-! DEFINITION. The two agents' turns (R16, R67): the core's completion step, the host's transactions, and reset. -/

namespace Sys2Proof.Machine

/-- `Execute(CMDL)` and its completion: an illegal word finishes ILLEGAL_CMD, a legal one runs (R113, R114, R115). -/
def completeCommand (s : State) : Result :=
  match decode s.cmdl with
  | .ok i => exec i s
  | .error _ => fails .illegalCmd s

/-- The core agent's turn: completion exactly when BUSY = 1; an idle block waits (R113, R317). -/
def coreTurn (s : State) : Result := if s.busy then completeCommand s else .next s

/-- The reset event: every element of rule R37 takes its reset value, and a command in flight is aborted (R340, R342).
What is outside the block stays: the coming inputs, the responses the host has, the count of free values. -/
def applyReset (s : State) : State :=
  { State.reset with inputs := s.inputs, responses := s.responses, draws := s.draws }

/-- One event, in its place in the total order (R67). -/
def applyEvent (e : Event) (s : State) : Result :=
  match e with
  | .read off size => .next (respond (memRead off size s))
  | .write off size v => .next (respond (memWrite off size v s))
  | .core => coreTurn s
  | .reset => .next (applyReset s)

/-- The next event of the order; once the inputs are used up the core has every turn, so no command waits for ever
(R67, R120). -/
def takeTurn (s : State) : Result :=
  match s.inputs with
  | [] => coreTurn s
  | e :: rest => applyEvent e { s with inputs := rest }

/-- A command word accepted by the block and completed at the very next turn: what a write of it to CMD leaves behind
(R111), with the core's turn put first. -/
def placeCommand (w : Word) (s : State) : State := { accept w s with inputs := .core :: s.inputs }

end Sys2Proof.Machine
end

