-- ==== Sys2Proof/Machine/Step.lean ====
section
/-! DEFINITION. One step of CCA-CORE, and how a command word is put where the next step runs it. -/

namespace Sys2Proof.Machine

/-- One step: the next event of the total order (R67). -/
def step (s : State) : Host.Outcome State Fault Refusal := takeTurn s

/-- The word w accepted as a command, the core's turn next. CCA-CORE fetches nothing (R34, R70): the command runs from
CMDL (log entry 1). -/
def State.withFetchWord (s : State) (nbits w : Nat) : State := placeCommand (BitVec.ofNat 32 (w % 2 ^ nbits)) s

end Sys2Proof.Machine
end

