-- ==== Sys2Proof/Machine/HostDriver.lean ====
section
/-! DEFINITION. The host software contract (43_host_wrapper.md): conversions, padding, validation, and the ECB encrypt and
decrypt calls of both engines, run on the block. It is software around the hardware (R6): nothing of it is in State, and
`step` does not use it. A string is its list of characters. -/

namespace Sys2Proof.Machine

/-- The errors of a driver call (R276). -/
inductive DriverError where
  /-- `InvalidKeyFormat` (R274). -/
  | invalidKeyFormat
  /-- `InvalidCiphertextFormat` (R275). -/
  | invalidCiphertextFormat
  /-- `UnencodableText` (R271). -/
  | unencodableText
  /-- The driver observed ERR ≠ 0, OVR = 1 or `BusError`: it reports a fault, not a result (R276). -/
  | coreFault
  deriving DecidableEq, Repr

/-- The two engines as the driver sees them. -/
inductive Engine where
  | feistel
  | spn
  deriving DecidableEq, Repr

/-! ## Conversions (R270, R271) -/

/-- The value of a hex digit, upper or lower case (R270). -/
def hexDigit (c : Char) : Option Nat :=
  if '0' ≤ c ∧ c ≤ '9' then some (c.toNat - 48)
  else if 'A' ≤ c ∧ c ≤ 'F' then some (c.toNat - 55)
  else if 'a' ≤ c ∧ c ≤ 'f' then some (c.toNat - 87)
  else none

/-- `hex_to_bytes`; none where the string is not hex of even length (R270). -/
def hexToBytes : List Char → Option (List Byte)
  | [] => some []
  | [_] => none
  | h :: l :: rest =>
    match hexDigit h, hexDigit l, hexToBytes rest with
    | some h, some l, some bs => some (BitVec.ofNat 8 (16 * h + l) :: bs)
    | _, _, _ => none

/-- The uppercase hex digit of a value below 16 (R270). -/
def hexChar (n : Nat) : Char := if n < 10 then Char.ofNat (48 + n) else Char.ofNat (55 + n)

/-- `bytes_to_hex` (R270). -/
def bytesToHex (bs : List Byte) : List Char := bs.flatMap fun b => [hexChar (b.toNat / 16), hexChar (b.toNat % 16)]

/-- `text_to_bytes`; a character above 0xFF is refused (R271, D37). -/
def textToBytes (t : List Char) : Except DriverError (List Byte) :=
  if t.all (fun c => c.toNat ≤ 0xFF) then .ok (t.map fun c => BitVec.ofNat 8 c.toNat) else .error .unencodableText

/-- `bytes_to_text` (R271). -/
def bytesToText (bs : List Byte) : List Char := bs.map fun b => Char.ofNat b.toNat

/-! ## Padding (R272, R273) -/

/-- `pad(b, B)` (R272). -/
def pad (bs : List Byte) (B : Nat) : List Byte :=
  bs ++ List.replicate (B - bs.length % B) (BitVec.ofNat 8 (B - bs.length % B))

/-- `unpad(b, B)`, the lenient policy (R273; 90_conflicts.md C2, C3). -/
def unpad (bs : List Byte) (B : Nat) : List Byte :=
  match bs.getLast? with
  | none => []
  | some last => if 1 ≤ last.toNat ∧ last.toNat ≤ B then bs.take (bs.length - last.toNat) else bs

/-! ## The engines' parameters -/

/-- Block size in bytes, which is the key size too (R272, R274, R279). -/
def Engine.blockBytes : Engine → Nat
  | .feistel => 8
  | .spn => 16

/-- The schedule command (R277, R279). -/
def Engine.schedule : Engine → Instr
  | .feistel => .fKs
  | .spn => .sKx

/-- The encryption command (R277, R279). -/
def Engine.encrypt : Engine → Instr
  | .feistel => .fEnc
  | .spn => .sEnc

/-- The decryption command (R278, R280). -/
def Engine.decrypt : Engine → Instr
  | .feistel => .fDec
  | .spn => .sDec

/-- The key's bytes: exactly 16 or 32 hex characters (R274). -/
def keyBytes (e : Engine) (key : List Char) : Except DriverError (List Byte) :=
  match hexToBytes key with
  | some bs => if bs.length = e.blockBytes then .ok bs else .error .invalidKeyFormat
  | none => .error .invalidKeyFormat

/-- The ciphertext's bytes: hex, a whole number of blocks, the empty string included (R275, D40). -/
def ciphertextBytes (e : Engine) (c : List Char) : Except DriverError (List Byte) :=
  match hexToBytes c with
  | some bs => if bs.length % e.blockBytes = 0 then .ok bs else .error .invalidCiphertextFormat
  | none => .error .invalidCiphertextFormat

/-! ## Driving the block -/

/-- The first n words of a byte string, four bytes each, the first the most significant (R11, R54). -/
def bytesToWords : Nat → List Byte → List Word
  | 0, _ => []
  | n + 1, bs => wordOfBytes (fun k => bs.getD k 0) :: bytesToWords n (bs.drop 4)

/-- The bytes of words (R11, R54). -/
def wordsToBytes (ws : List Word) : List Byte := ws.flatMap fun w => [wbyte w 0, wbyte w 1, wbyte w 2, wbyte w 3]

/-- Writes of consecutive registers from an offset: `ldkey`, `ldblk` (R92). -/
def loadWords (off : Nat) : List Word → List Event
  | [] => []
  | w :: ws => .write (BitVec.ofNat 10 off) 4 w :: loadWords (off + 4) ws

/-- Reads of n consecutive registers from an offset: `rdblk` (R92). -/
def readWords (off : Nat) (n : Nat) : List Event := (List.range n).map fun k => .read (BitVec.ofNat 10 (off + 4 * k)) 4

/-- `run M`: the command, the core's turn, and the read of STATUS that ends `poll` (R92; log entry 11). -/
def runEvents (i : Instr) : List Event := [.write 0x000 4 (encode i), .core, .read 0x004 4]

/-- The block after a sequence of events; none if a turn stopped (none does, R300). -/
def drive : List Event → State → Option State
  | [], s => some s
  | e :: es, s =>
    match applyEvent e s with
    | .next s' => drive es s'
    | .fault _ => none
    | .refused _ => none

/-- Runs a command and reports a fault unless STATUS shows BUSY = 0, OVR = 0 and ERR = 0 (R276). -/
def driverRun (i : Instr) (s : State) : Except DriverError State :=
  match drive (runEvents i) s with
  | some s' =>
    match s'.responses.head? with
    | some (.data v) => if v &&& 0xF5 = 0 then .ok s' else .error .coreFault
    | some .written => .error .coreFault
    | some .busError => .error .coreFault
    | none => .error .coreFault
  | none => .error .coreFault

/-- The read data of the n latest responses, the earliest first; none if one of them is no data (R276). -/
def latestWords (n : Nat) (s : State) : Option (List Word) :=
  (s.responses.take n).reverse.mapM fun r => match r with
    | .data v => some v
    | .written => none
    | .busError => none

/-- One block through the engine: load, run, read back (R277). -/
def driverBlock (e : Engine) (i : Instr) (blk : List Byte) (s : State) : Except DriverError (List Byte × State) :=
  let n := e.blockBytes / 4
  match drive (loadWords 0x020 (bytesToWords n blk)) s with
  | none => .error .coreFault
  | some s₁ =>
    match driverRun i s₁ with
    | .error err => .error err
    | .ok s₂ =>
      match drive (readWords 0x020 n) s₂ with
      | none => .error .coreFault
      | some s₃ =>
        match latestWords n s₃ with
        | none => .error .coreFault
        | some ws => .ok (wordsToBytes ws, s₃)

/-- n blocks in order, each on its own: ECB (R277). -/
def driverBlocks (e : Engine) (i : Instr) : Nat → List Byte → State → Except DriverError (List Byte × State)
  | 0, _, s => .ok ([], s)
  | n + 1, bs, s =>
    match driverBlock e i (bs.take e.blockBytes) s with
    | .error err => .error err
    | .ok (out, s₁) =>
      match driverBlocks e i n (bs.drop e.blockBytes) s₁ with
      | .error err => .error err
      | .ok (outs, s₂) => .ok (out ++ outs, s₂)

/-- A call's work after validation: load the key, run the schedule once, transform every block (R277, R281). -/
def driverTransform (e : Engine) (i : Instr) (key bs : List Byte) (s : State) :
    Except DriverError (List Byte × State) :=
  match drive (loadWords 0x010 (bytesToWords (e.blockBytes / 4) key)) s with
  | none => .error .coreFault
  | some s₁ =>
    match driverRun e.schedule s₁ with
    | .error err => .error err
    | .ok s₂ => driverBlocks e i (bs.length / e.blockBytes) bs s₂

/-- `encrypt(plaintext, key)` (R277, R279). The key is checked first; no register is written on a failure. -/
def driverEncrypt (e : Engine) (plaintext key : List Char) (s : State) : Except DriverError (List Char × State) :=
  match keyBytes e key with
  | .error err => .error err
  | .ok k =>
    match textToBytes plaintext with
    | .error err => .error err
    | .ok bs =>
      match driverTransform e e.encrypt k (pad bs e.blockBytes) s with
      | .error err => .error err
      | .ok (out, s') => .ok (bytesToHex out, s')

/-- `decrypt(ciphertext, key)` (R278, R280). A malformed key is reported before a malformed ciphertext (R275, D42). -/
def driverDecrypt (e : Engine) (ciphertext key : List Char) (s : State) : Except DriverError (List Char × State) :=
  match keyBytes e key with
  | .error err => .error err
  | .ok k =>
    match ciphertextBytes e ciphertext with
    | .error err => .error err
    | .ok c =>
      match driverTransform e e.decrypt k c s with
      | .error err => .error err
      | .ok (out, s') => .ok (bytesToText (unpad out e.blockBytes), s')

end Sys2Proof.Machine
end

