-- ==== Sys2Proof/Machine/HostProgram.lean ====
section
/-! DEFINITION. The host's programs (30_encoding.md section 5): the statements of rule R91, the pseudo-statements of rule
R92, and what one statement does on the block. The host's own program counter stands here, not in the block's State (R34):
the block sees only the transactions. -/

namespace Sys2Proof.Machine

/-- REG of a statement: a register's name, or a raw byte offset (R90, R91). -/
inductive HostReg where
  | reg (r : PortReg)
  | raw (off : Offset)
  deriving DecidableEq, Repr

/-- A label: a name of the program's text, or the fresh one of a `poll` (R91, R92). -/
inductive HostLabel where
  | named (name : List Char)
  | fresh (n : Nat)
  deriving DecidableEq, Repr

/-- The primitive statements (R91). -/
inductive HostStmt where
  | wr (r : HostReg) (v : Word)
  | rd (r : HostReg)
  | label (l : HostLabel)
  | bnz (r : HostReg) (mask : Word) (l : HostLabel)
  deriving DecidableEq, Repr

/-- A host that runs a program: its program counter (an index of the statement list) and the block it drives. -/
structure Hosted where
  pc    : Nat
  block : State
  deriving DecidableEq, Repr

/-- off(REG) (R90, R91). -/
def HostReg.offset : HostReg → Offset
  | .reg r => r.offset
  | .raw off => off

/-- The statement list's index of a label (R91). Where two statements have the same label, a label in a body that `repeat`
unrolls several times among them, the spec does not say which one bnz goes to, nor that the program is refused: the
first one is the model's choice (DESIGN CHOICE, log entry 16). -/
def labelIndex (prog : List HostStmt) (l : HostLabel) : Option Nat := prog.findIdx? (fun st => st == .label l)

/-- Where bnz goes after its read was answered: to the label where (value & mask) ≠ 0, else on. On a `BusError` the host
decides (R305, D41; log entry 10): there is no next place. -/
def branchTarget (prog : List HostStmt) (pc : Nat) (answer : Response) (mask : Word) (l : HostLabel) : Option Nat :=
  match answer with
  | .data v => if v &&& mask ≠ 0 then labelIndex prog l else some (pc + 1)
  | .written => none
  | .busError => none

/-- The host's turn: its next statement, at most one transaction (R91). None: the program has ended, or the host's
behaviour is not the spec's. -/
def hostTurn (prog : List HostStmt) (h : Hosted) : Option Hosted :=
  match prog[h.pc]? with
  | none => none
  | some (.wr r v) => some ⟨h.pc + 1, respond (memWrite r.offset 4 v h.block)⟩
  | some (.rd r) => some ⟨h.pc + 1, respond (memRead r.offset 4 h.block)⟩
  | some (.label _) => some ⟨h.pc + 1, h.block⟩
  | some (.bnz r mask l) =>
    let p := memRead r.offset 4 h.block
    (branchTarget prog h.pc p.1 mask l).map fun pc => ⟨pc, respond p⟩

/-- The core's turn beside a running host. -/
def coreTurnBeside (h : Hosted) : Option Hosted :=
  match coreTurn h.block with
  | .next s => some { h with block := s }
  | .fault _ => none
  | .refused _ => none

/-- A run of host and core in a given order of turns, true for the host's (R16, R67, R308). -/
def runHosted (prog : List HostStmt) : List Bool → Hosted → Option Hosted
  | [], h => some h
  | true :: turns, h => (hostTurn prog h).bind (runHosted prog turns)
  | false :: turns, h => (coreTurnBeside h).bind (runHosted prog turns)

/-! ## Pseudo-statements (R92) -/

/-- The write of a command word to CMD, a raw one too (R91). -/
def stmtCmdWord (w : Word) : List HostStmt := [.wr (.reg .cmd) w]

/-- `cmd M [r]`. -/
def stmtCmd (i : Instr) : List HostStmt := stmtCmdWord (encode i)

/-- `poll`, with the fresh label l. -/
def stmtPoll (l : HostLabel) : List HostStmt := [.label l, .bnz (.reg .status) 0x1 l]

/-- `run M [r]`. -/
def stmtRun (i : Instr) (l : HostLabel) : List HostStmt := stmtCmd i ++ stmtPoll l

/-- `ldkey64 h16`. -/
def stmtLdkey64 (k : Block64) : List HostStmt :=
  [.wr (.reg (.key 0)) (k.extractLsb' 32 32), .wr (.reg (.key 1)) (k.extractLsb' 0 32)]

/-- `ldkey128 h32`, the most significant word first. -/
def stmtLdkey128 (k : Block128) : List HostStmt :=
  [.wr (.reg (.key 0)) (wordOf k 0), .wr (.reg (.key 1)) (wordOf k 1),
   .wr (.reg (.key 2)) (wordOf k 2), .wr (.reg (.key 3)) (wordOf k 3)]

/-- `ldblk64 h16`. -/
def stmtLdblk64 (b : Block64) : List HostStmt :=
  [.wr (.reg (.data 0)) (b.extractLsb' 32 32), .wr (.reg (.data 1)) (b.extractLsb' 0 32)]

/-- `ldblk128 h32`. -/
def stmtLdblk128 (b : Block128) : List HostStmt :=
  [.wr (.reg (.data 0)) (wordOf b 0), .wr (.reg (.data 1)) (wordOf b 1),
   .wr (.reg (.data 2)) (wordOf b 2), .wr (.reg (.data 3)) (wordOf b 3)]

/-- `rdblk64`. -/
def stmtRdblk64 : List HostStmt := [.rd (.reg (.data 0)), .rd (.reg (.data 1))]

/-- `rdblk128`. -/
def stmtRdblk128 : List HostStmt :=
  [.rd (.reg (.data 0)), .rd (.reg (.data 1)), .rd (.reg (.data 2)), .rd (.reg (.data 3))]

/-- `repeat r in a..=b { body }`. -/
def stmtRepeatUp (a b : Nat) (body : Nat → List HostStmt) : List HostStmt :=
  (List.range' a (b + 1 - a)).flatMap body

/-- `repeat r in b..=a down { body }`. -/
def stmtRepeatDown (b a : Nat) (body : Nat → List HostStmt) : List HostStmt :=
  (List.range' a (b + 1 - a)).reverse.flatMap body

end Sys2Proof.Machine
end

