-- ==== Sys2Proof/Machine/TableRules.lean ====
section
/-! DEFINITION. The structural constraints a table set must keep (R131, R132, R135, R138 to R141, R143, R205, R206, R211 to
R213). They are normative whatever the values are; the values in Tables.lean are defaults (D19). -/

namespace Sys2Proof.Machine

/-- T selects from n input bits, each number in 1..=n. -/
def entriesWithin (n : Nat) (T : List Nat) : Bool := T.all fun v => decide (1 ≤ v ∧ v ≤ n)

/-- U undoes T: U[T[j]] = j for every j (R139). -/
def undoes (U T : Vector Nat 64) : Bool :=
  (List.range 64).all fun j => U.getD (T.getD j 0 - 1) 0 == j + 1

/-- The constraints on the Feistel tables: PC-1 distinct and without the parity bits (R132), PC-2 distinct (R135), IP a
permutation and FP its inverse, both ways (R138, R139), E within its input (R140), P a permutation (R143). The S-boxes are
bounded by their type (R141). -/
def feistelTablesOk (t : FeistelTables) : Bool :=
  entriesWithin 64 t.pc1.toList && t.pc1.toList.all (fun v => v % 8 != 0) && decide t.pc1.toList.Nodup &&
  entriesWithin 56 t.pc2.toList && decide t.pc2.toList.Nodup &&
  entriesWithin 64 t.ip.toList && decide t.ip.toList.Nodup &&
  entriesWithin 64 t.fp.toList && undoes t.fp t.ip && undoes t.ip t.fp &&
  entriesWithin 32 t.e.toList &&
  entriesWithin 32 t.p.toList && decide t.p.toList.Nodup

/-- TBL_INVSBOX undoes TBL_SBOX on every byte (R206), which makes TBL_SBOX a bijection (R205). -/
def sboxesInverse (t : SpnTables) : Bool :=
  (List.range 256).all fun a => byteLookup t.invSbox (byteLookup t.sbox (BitVec.ofNat 8 a)) == BitVec.ofNat 8 a

/-- TBL_INVMIX times TBL_MIX is the identity over GF(2^8) (R213). -/
def mixesInverse (t : SpnTables) : Bool :=
  (List.range 4).all fun r => (List.range 4).all fun c =>
    rowTimesColumn t.invMix r (fun k => (t.mix.getD k (Vector.replicate 4 0)).getD c 0) == if r = c then 1 else 0

/-- The constraints on the SPN tables. -/
def spnTablesOk (t : SpnTables) : Bool := sboxesInverse t && mixesInverse t

end Sys2Proof.Machine
end

