-- ==== Sys2Proof/Safety.lean ====
section
/-! DEFINITION. The invariant of the block and what counts as a safe step, in the terms the statements use. -/

namespace Sys2Proof.Machine

/-- FKV = 1 implies that every FRK entry holds KS(FKEY)[i] (R25). -/
def FeistelScheduleHeld (s : State) : Prop :=
  s.fkv = true → ∀ i : Fin 16, s.frk[i] = some (keySchedule feistelTables s.fkey)[i]

/-- SKV = 1 implies that every SRK entry holds W(KEY)[j] (R26). -/
def SpnScheduleHeld (s : State) : Prop :=
  s.skv = true → ∀ j : Fin 44, s.srk[j] = some (keyExpansion spnTables s.key)[j]

/-- A register file is written as a whole, so its entries are all empty or all values (R23, R24). -/
def WrittenAsWhole {α : Type} {n : Nat} (file : Vector (Option α) n) : Prop :=
  (∀ i : Fin n, file[i] = none) ∨ (∀ i : Fin n, file[i].isSome = true)

/-- The status flags a run can show: BUSY and DONE are never both 1, and ERR is 0 until a command has completed (R28, R29,
R31, R111, R113). -/
def StatusLegal (s : State) : Prop := ¬ (s.busy = true ∧ s.done = true) ∧ (s.done = false → s.err = .ok)

/-- The invariant every step keeps. -/
structure Inv (s : State) : Prop where
  feistel : FeistelScheduleHeld s
  spn     : SpnScheduleHeld s
  frk     : WrittenAsWhole s.frk
  srk     : WrittenAsWhole s.srk
  status  : StatusLegal s

/-- The events of the host agent: its transactions (R16, R50). -/
def fromHost : Event → Bool
  | .read _ _ => true
  | .write _ _ _ => true
  | .core => false
  | .reset => false

/-- The core agent has the next turn. -/
def CoreNext (s : State) : Prop := s.inputs = [] ∨ ∃ rest, s.inputs = .core :: rest

/-- The Feistel commands (R82, group 1). -/
def feistelCommand : Instr → Bool
  | .fKs | .fEnc | .fDec | .fIp | .fFp | .fRnd _ | .fSwap => true
  | .nop | .sKx | .sEnc | .sDec | .sSub | .sIsub | .sShr | .sIshr | .sMix | .sImix | .sArk _ => false

/-- The commands that write DATA, as the table of rule R33 lists them. -/
def writesData : Instr → Bool
  | .fEnc | .fDec | .fIp | .fFp | .fRnd _ | .fSwap => true
  | .sEnc | .sDec | .sSub | .sIsub | .sShr | .sIshr | .sMix | .sImix | .sArk _ => true
  | .nop | .fKs | .sKx => false

/-- The 18 operation codes, as numbers (R82). -/
def legalOps : List (BitVec 8) :=
  [0x00, 0x10, 0x11, 0x12, 0x13, 0x14, 0x15, 0x16, 0x20, 0x21, 0x22, 0x23, 0x24, 0x25, 0x26, 0x27, 0x28, 0x29]

/-- `Legal(w)`, written from the words of rule R115 and not from the decoder. -/
def Legal (w : Word) : Prop :=
  w.extractLsb' 12 20 = 0 ∧ w.extractLsb' 0 8 ∈ legalOps ∧
    (w.extractLsb' 8 4 = 0 ∨ w.extractLsb' 0 8 = 0x15 ∨ w.extractLsb' 0 8 = 0x29)

/-- The unmapped word offsets, as rule R57 lists them. -/
def Unmapped (n : Nat) : Prop :=
  n = 0x008 ∨ n = 0x00C ∨ (0x030 ≤ n ∧ n ≤ 0x0FC) ∨ (0x180 ≤ n ∧ n ≤ 0x1FC) ∨ (0x2B0 ≤ n ∧ n ≤ 0x3FC)

/-- The offsets of the registers whose writes a busy block discards: CMD, KEY0 to KEY3, DATA0 to DATA3 (R30). -/
def DiscardedWhileBusy (n : Nat) : Prop := n = 0x000 ∨ (0x010 ≤ n ∧ n < 0x030 ∧ n % 4 = 0)

/-- A step is safe when it neither faults nor is refused (R300). -/
def StepSafe (s : State) : Prop := ∃ t, step s = .next t

/-- Commands completed one after another, each by its own completion; a stop ends the sequence (R354). -/
def execAll : List Instr → State → Host.Outcome State Fault Refusal
  | [], s => .next s
  | i :: is, s =>
    match exec i s with
    | .next t => execAll is t
    | .fault r => .fault r
    | .refused r => .refused r

/-- The layer sequence of a Feistel block transform with its round operands in the given order (R167). -/
def feistelLayers (order : List (BitVec 4)) : List Instr := .fIp :: (order.map .fRnd ++ [.fSwap, .fFp])

/-- The layer sequence of an SPN encryption (R250). -/
def spnEncLayers : List Instr :=
  .sArk 0 :: (([1, 2, 3, 4, 5, 6, 7, 8, 9] : List (BitVec 4)).flatMap fun n => [.sSub, .sShr, .sMix, .sArk n]) ++
    [.sSub, .sShr, .sArk 10]

/-- The layer sequence of an SPN decryption (R250). -/
def spnDecLayers : List Instr :=
  .sArk 10 :: (([9, 8, 7, 6, 5, 4, 3, 2, 1] : List (BitVec 4)).flatMap fun n => [.sIshr, .sIsub, .sArk n, .sImix]) ++
    [.sIshr, .sIsub, .sArk 0]

/-- Steps in a row. -/
def stepMany : Nat → State → Host.Outcome State Fault Refusal
  | 0, s => .next s
  | n + 1, s =>
    match step s with
    | .next t => stepMany n t
    | .fault r => .fault r
    | .refused r => .refused r

end Sys2Proof.Machine
end

