-- ==== Sys2Proof/Certificates/Slice0/Obligations.lean ====
section
/-! DEFINITION. The statements for the provers. A statement about a next state writes it as the state before with the
fields that change, so that it says the result, the frame and that the command completes at once. -/

open Sys2Proof Sys2Proof.Machine

/-! ## Encoding -/

/-- Decoding an encoded command gives it back, and a word that decodes is the encoding of what it decodes to: no bit of
the word is dropped (R80, R82, R88). -/
def Obligations.DecodeAndEncodeAgree : Prop :=
  (∀ i : Instr, i.wellFormed = true → decode (encode i) = .ok i) ∧
  (∀ (w : Word) (i : Instr), decode w = .ok i → i.wellFormed = true ∧ encode i = w)

/-- A word selects at most one row of the opcode table, and it decodes exactly when it selects one, to the command of that
row with the word's RND field (R82, R84). -/
def Obligations.AtMostOneRowSelected : Prop :=
  (∀ (w : Word) (r r' : OpcodeRow), r ∈ opcodeTable → r' ∈ opcodeTable →
    w &&& r.mask = r.pattern → w &&& r'.mask = r'.pattern → r = r') ∧
  (∀ (w : Word) (i : Instr), decode w = .ok i ↔
    ∃ r ∈ opcodeTable, w &&& r.mask = r.pattern ∧ i = Instr.ofOpcode r.op (w.extractLsb' 8 4))

/-- R86: the three clauses of an illegal word, their equivalence with selecting no row, and ILLEGAL_CMD as the result. -/
def Obligations.IllegalWordsExactly : Prop :=
  (∀ w : Word, (∃ e, decode w = .error e) ↔
    (w.extractLsb' 12 20 ≠ 0 ∨ w.extractLsb' 0 8 ∉ legalOps ∨
      (w.extractLsb' 0 8 ≠ 0x15 ∧ w.extractLsb' 0 8 ≠ 0x29 ∧ w.extractLsb' 8 4 ≠ 0))) ∧
  (∀ w : Word, (∃ e, decode w = .error e) ↔ ∀ r ∈ opcodeTable, w &&& r.mask ≠ r.pattern) ∧
  (∀ (s : State) (rest : List Event), s.busy = true → (∃ e, decode s.cmdl = .error e) →
    step { s with inputs := .core :: rest } =
      .next { s with inputs := rest, err := .illegalCmd, busy := false, done := true })

/-- Words written out from rules R82 and R88 decode to the commands they stand for, and the reserved ones are refused. -/
def Obligations.SpecWordsDecode : Prop :=
  decode 0x00000000 = .ok .nop ∧ decode 0x00000010 = .ok .fKs ∧ decode 0x00000515 = .ok (.fRnd 5) ∧
  decode 0x00000F15 = .ok (.fRnd 15) ∧ decode 0x00000022 = .ok .sDec ∧ decode 0x00000029 = .ok (.sArk 0) ∧
  decode 0x00000A29 = .ok (.sArk 10) ∧ decode 0x00000B29 = .ok (.sArk 11) ∧
  decode 0x00000110 = .error .unexpectedRound ∧ decode 0x00001010 = .error .reservedBits ∧
  decode 0x0000002A = .error .reservedOp

/-- The assembler refuses exactly the operands rule R89 names, and what it accepts decodes to the command that was
written, a missing operand meaning 0. -/
def Obligations.AssemblerAcceptsAndRefuses : Prop :=
  ∀ c : SourceCommand,
    (assemble c = none ↔ ∃ r, c.operand = some r ∧
      ((c.op ≠ .fRnd ∧ c.op ≠ .sArk) ∨ (c.op = .fRnd ∧ 15 < r) ∨ (c.op = .sArk ∧ 10 < r))) ∧
    (∀ w, assemble c = some w →
      ∃ i, decode w = .ok i ∧ i.opcode = c.op ∧ i.round.toNat = c.operand.getD 0)

/-! ## A step -/

/-- When the core has the turn and CMDL decodes, the step is exec of the command; all the step adds is to take the core's
turn off the inputs (R113, R114). -/
def Obligations.StepRunsTheDecodedCommand : Prop :=
  ∀ (s : State) (i : Instr), s.busy = true → decode s.cmdl = .ok i →
    (s.inputs = [] → step s = exec i s) ∧
    (∀ rest, step { s with inputs := .core :: rest } = exec i { s with inputs := rest })

/-- A command word placed in any state is the one the very next step runs, from the flags its acceptance leaves (R111,
R113). -/
def Obligations.PlacedCommandRunsNext : Prop :=
  ∀ (s : State) (i : Instr),
    step (s.withFetchWord 32 (encode i).toNat) =
      exec i { s with cmdl := encode i, busy := true, done := false, err := .ok }

/-- No step faults or is refused, in any state: no error stops the block (R300). -/
def Obligations.NoStepStops : Prop := ∀ s : State, StepSafe s

/-- The result of a completion, for every word CMDL can hold: the checks in their order, the lifecycle flags, OVR kept,
and no other effect where the code is not OK (R113, R114, R115, R117, R119). An idle block's turn does nothing. -/
def Obligations.ResultCodeOfEveryWord : Prop :=
  ∀ (s : State) (rest : List Event),
    (s.busy = false → step { s with inputs := .core :: rest } = .next { s with inputs := rest }) ∧
    (s.busy = true → ∃ t, step { s with inputs := .core :: rest } = .next t ∧
      t.busy = false ∧ t.done = true ∧ t.ovr = s.ovr ∧
      (t.err ≠ .ok → t = { s with inputs := rest, err := t.err, busy := false, done := true }) ∧
      (¬ Legal s.cmdl → t.err = .illegalCmd) ∧
      (Legal s.cmdl →
        let op := s.cmdl.extractLsb' 0 8
        let badRound := op = 0x29 ∧ 10 < (s.cmdl.extractLsb' 8 4).toNat
        let noSchedule := ((op = 0x11 ∨ op = 0x12 ∨ op = 0x15) ∧ s.fkv = false) ∨
          ((op = 0x21 ∨ op = 0x22 ∨ op = 0x29) ∧ s.skv = false)
        (badRound → t.err = .badRound) ∧ (¬ badRound → noSchedule → t.err = .noSchedule) ∧
        (¬ badRound → ¬ noSchedule → t.err = .ok)))

/-! ## The host port -/

/-- R111 and R62: a CMD write is accepted by an idle block and discarded by a busy one; a CMD read returns CMDL. What
answers the discarded write is left open here (log entry 9). -/
def Obligations.CmdRegister : Prop :=
  ∀ (s : State) (rest : List Event) (v : Word),
    (s.busy = false → step { s with inputs := .write 0x000 4 v :: rest } =
      .next { s with inputs := rest, responses := .written :: s.responses,
                     cmdl := v, busy := true, done := false, err := .ok }) ∧
    (s.busy = true → ∃ r, step { s with inputs := .write 0x000 4 v :: rest } =
      .next { s with inputs := rest, responses := r :: s.responses, ovr := true }) ∧
    step { s with inputs := .read 0x000 4 :: rest } =
      .next { s with inputs := rest, responses := .data s.cmdl :: s.responses }

/-- R60: a write to KEYk. -/
def Obligations.KeyWrite : Prop :=
  ∀ (s : State) (rest : List Event) (v : Word) (k : Fin 4),
    let s' := { s with inputs := .write (BitVec.ofNat 10 (0x010 + 4 * k.val)) 4 v :: rest }
    (s.busy = true → ∃ r,
      step s' = .next { s with inputs := rest, responses := r :: s.responses, ovr := true }) ∧
    (s.busy = false → ∃ K : Block128,
      step s' = .next { s with inputs := rest, responses := .written :: s.responses, key := K, skv := false,
                               fkv := if k.val ≤ 1 then false else s.fkv } ∧
      ∀ j : Fin 4, K.extractLsb' (96 - 32 * j.val) 32 =
        if j = k then v else s.key.extractLsb' (96 - 32 * j.val) 32)

/-- R64: a write to DATAk. -/
def Obligations.DataWrite : Prop :=
  ∀ (s : State) (rest : List Event) (v : Word) (k : Fin 4),
    let s' := { s with inputs := .write (BitVec.ofNat 10 (0x020 + 4 * k.val)) 4 v :: rest }
    (s.busy = true → ∃ r,
      step s' = .next { s with inputs := rest, responses := r :: s.responses, ovr := true }) ∧
    (s.busy = false → ∃ D : Block128,
      step s' = .next { s with inputs := rest, responses := .written :: s.responses, data := D } ∧
      ∀ j : Fin 4, D.extractLsb' (96 - 32 * j.val) 32 =
        if j = k then v else s.data.extractLsb' (96 - 32 * j.val) 32)

/-- R61: a write to STATUS, busy or not. -/
def Obligations.StatusWrite : Prop :=
  ∀ (s : State) (rest : List Event) (v : Word),
    step { s with inputs := .write 0x004 4 v :: rest } =
      .next { s with inputs := rest, responses := .written :: s.responses,
                     ovr := if v.getLsbD 2 then false else s.ovr }

/-- The bits of STATUS as read (R27, R31). -/
def Obligations.StatusBits : Prop :=
  ∀ s : State, let w := statusWord s
    w.getLsbD 0 = s.busy ∧ w.getLsbD 1 = s.done ∧ w.getLsbD 2 = s.ovr ∧ w.getLsbD 3 = false ∧
    (s.err = .ok → w.extractLsb' 4 4 = 0) ∧ (s.err = .illegalCmd → w.extractLsb' 4 4 = 1) ∧
    (s.err = .noSchedule → w.extractLsb' 4 4 = 2) ∧ (s.err = .badRound → w.extractLsb' 4 4 = 3) ∧
    w.getLsbD 8 = s.fkv ∧ w.getLsbD 9 = s.skv ∧ ∀ i, 10 ≤ i → w.getLsbD i = false

/-- The read function at every offset and size (R59, R63). Nothing of the block changes; the one thing that moves is the
count of free values, where the answer is ANY32. That ANY32 is the free value of the counter, and that the counter then
advances, is the model's form of it (log entry 3); no clause says which value it is. -/
def Obligations.ReadFunction : Prop :=
  ∀ (s : State) (rest : List Event) (off : Offset) (size : Nat), ∃ (r : Response) (d : Nat),
    step { s with inputs := .read off size :: rest } =
      .next { s with inputs := rest, responses := r :: s.responses, draws := d } ∧
    let n := off.toNat
    let drawn := r = .data (Config.any32 s.draws) ∧ d = s.draws + 1
    let exact := fun v : Word => r = .data v ∧ d = s.draws
    (size ≠ 4 ∨ n % 4 ≠ 0 ∨ Unmapped n → r = .busError ∧ d = s.draws) ∧
    (size = 4 →
      (n = 0x000 → exact s.cmdl) ∧
      (n = 0x004 → exact (statusWord s)) ∧
      (∀ k : Fin 4, n = 0x010 + 4 * k.val → exact (s.key.extractLsb' (96 - 32 * k.val) 32)) ∧
      (∀ k : Fin 4, n = 0x020 + 4 * k.val →
        (s.busy = true → drawn) ∧ (s.busy = false → exact (s.data.extractLsb' (96 - 32 * k.val) 32))) ∧
      (∀ i : Fin 16, n = 0x100 + 8 * i.val →
        (s.busy = true ∨ s.frk[i] = none → drawn) ∧
        (∀ k, s.busy = false → s.frk[i] = some k → exact ((0 : BitVec 16) ++ k.extractLsb' 32 16))) ∧
      (∀ i : Fin 16, n = 0x104 + 8 * i.val →
        (s.busy = true ∨ s.frk[i] = none → drawn) ∧
        (∀ k, s.busy = false → s.frk[i] = some k → exact (k.extractLsb' 0 32))) ∧
      (∀ j : Fin 44, n = 0x200 + 4 * j.val →
        (s.busy = true ∨ s.srk[j] = none → drawn) ∧
        (∀ w, s.busy = false → s.srk[j] = some w → exact w)))

/-- R53, R57, R58, R65: what is answered `BusError`, and that nothing of the block changes then. -/
def Obligations.BusErrors : Prop :=
  ∀ (s : State) (rest : List Event) (off : Offset) (size : Nat) (v : Word),
    let n := off.toNat
    let unchanged := Host.Outcome.next (φ := Fault) (ρ := Refusal)
      { s with inputs := rest, responses := .busError :: s.responses }
    (size ≠ 4 ∨ n % 4 ≠ 0 ∨ Unmapped n →
      step { s with inputs := .read off size :: rest } = unchanged ∧
      step { s with inputs := .write off size v :: rest } = unchanged) ∧
    ((0x100 ≤ n ∧ n < 0x180) ∨ (0x200 ≤ n ∧ n < 0x2B0) →
      step { s with inputs := .write off size v :: rest } = unchanged)

/-- Each mapped offset names one register and each register has one offset (R52, R90). -/
def Obligations.RegisterMap : Prop := ∀ (off : Offset) (r : PortReg), regAt off = some r ↔ off = r.offset

/-- The window's offsets are the bus addresses BASE to BASE + 0x3FF, whatever BASE is (R8, R51). -/
def Obligations.WindowAtBase : Prop :=
  ∀ (addr : Nat) (off : Offset), busOffset addr = some off ↔ addr = Config.base + off.toNat

/-- R30: what sets OVR, what clears it, and that nothing else changes it. -/
def Obligations.OverrunFlag : Prop :=
  (∀ (s : State) (rest : List Event) (off : Offset) (v : Word), s.busy = true → DiscardedWhileBusy off.toNat → ∃ r,
    step { s with inputs := .write off 4 v :: rest } =
      .next { s with inputs := rest, responses := r :: s.responses, ovr := true }) ∧
  (∀ s t : State, step s = .next t → s.ovr = false → t.ovr = true →
    s.busy = true ∧ ∃ off v rest, s.inputs = .write off 4 v :: rest ∧ DiscardedWhileBusy off.toNat) ∧
  (∀ (s : State) (rest : List Event) (v : Word), v.getLsbD 2 = true →
    ∃ t, step { s with inputs := .write 0x004 4 v :: rest } = .next t ∧ t.ovr = false) ∧
  (∀ s t : State, step s = .next t → s.ovr = true → t.ovr = false →
    (∃ rest, s.inputs = .reset :: rest) ∨
    ∃ v rest, s.inputs = .write 0x004 4 v :: rest ∧ v.getLsbD 2 = true) ∧
  (∀ (i : Instr) (s t : State), exec i s = .next t → t.ovr = s.ovr)

/-! ## Reset and invariants -/

/-- R37: the value of every element after reset, and that the block then waits. -/
def Obligations.ResetState : Prop :=
  let s := State.reset
  s.key = 0 ∧ s.data = 0 ∧ (∀ i : Fin 16, s.frk[i] = none) ∧ (∀ j : Fin 44, s.srk[j] = none) ∧
  s.fkv = false ∧ s.skv = false ∧ s.busy = false ∧ s.done = false ∧ s.ovr = false ∧ s.err = .ok ∧ s.cmdl = 0 ∧
  statusWord s = 0x00000000 ∧ step s = .next s

/-- R340: a reset in any state, a command in flight or not, gives every element its reset value. -/
def Obligations.ResetEvent : Prop :=
  ∀ (s : State) (rest : List Event), ∃ t,
    step { s with inputs := .reset :: rest } = .next t ∧
    t.key = 0 ∧ t.data = 0 ∧ (∀ i : Fin 16, t.frk[i] = none) ∧ (∀ j : Fin 44, t.srk[j] = none) ∧
    t.fkv = false ∧ t.skv = false ∧ t.busy = false ∧ t.done = false ∧ t.ovr = false ∧ t.err = .ok ∧ t.cmdl = 0 ∧
    statusWord t = 0x00000000

/-- The invariant holds after reset. -/
def Obligations.InvariantAtReset : Prop := Inv State.reset

/-- Every step from a state with the invariant gives a state with it: FKV = 1 means FRK holds the schedule of the current
key, SKV = 1 means SRK holds its expansion, files are written as a whole, the flags stay legal (R23 to R26, R28, R29). -/
def Obligations.EveryStepKeepsTheInvariant : Prop := ∀ s t : State, Inv s → step s = .next t → Inv t

/-! ## Whole-machine rules -/

/-- Who can change KEY, DATA, CMDL, FRK and SRK: host writes to an idle block, the commands that rule R33 lists, and reset,
and nothing else (R20, R21, R23, R24, R32, R33). -/
def Obligations.EachRegisterHasItsWriters : Prop :=
  ∀ s t : State, step s = .next t →
    (t.key ≠ s.key → (∃ rest, s.inputs = .reset :: rest) ∨
      (s.busy = false ∧ ∃ off v rest, s.inputs = .write off 4 v :: rest ∧ 0x010 ≤ off.toNat ∧ off.toNat < 0x020)) ∧
    (t.data ≠ s.data → (∃ rest, s.inputs = .reset :: rest) ∨
      (s.busy = false ∧ ∃ off v rest, s.inputs = .write off 4 v :: rest ∧ 0x020 ≤ off.toNat ∧ off.toNat < 0x030) ∨
      (CoreNext s ∧ s.busy = true ∧ ∃ i, decode s.cmdl = .ok i ∧ writesData i = true)) ∧
    (t.cmdl ≠ s.cmdl → (∃ rest, s.inputs = .reset :: rest) ∨
      (s.busy = false ∧ ∃ rest, s.inputs = .write 0x000 4 t.cmdl :: rest)) ∧
    (t.frk ≠ s.frk → (∃ rest, s.inputs = .reset :: rest) ∨
      (CoreNext s ∧ s.busy = true ∧ decode s.cmdl = .ok .fKs)) ∧
    (t.srk ≠ s.srk → (∃ rest, s.inputs = .reset :: rest) ∨
      (CoreNext s ∧ s.busy = true ∧ decode s.cmdl = .ok .sKx))

/-- What changes FKV and SKV: F_KS and S_KX set them, a key write or reset clears them, nothing else does (R25, R26). -/
def Obligations.ValidFlagsHaveTheirWriters : Prop :=
  ∀ s t : State, step s = .next t →
    (s.fkv = false → t.fkv = true → CoreNext s ∧ s.busy = true ∧ decode s.cmdl = .ok .fKs) ∧
    (s.fkv = true → t.fkv = false → (∃ rest, s.inputs = .reset :: rest) ∨
      (s.busy = false ∧ ∃ off v rest, s.inputs = .write off 4 v :: rest ∧ (off = 0x010 ∨ off = 0x014))) ∧
    (s.skv = false → t.skv = true → CoreNext s ∧ s.busy = true ∧ decode s.cmdl = .ok .sKx) ∧
    (s.skv = true → t.skv = false → (∃ rest, s.inputs = .reset :: rest) ∨
      (s.busy = false ∧ ∃ off v rest, s.inputs = .write off 4 v :: rest ∧
        (off = 0x010 ∨ off = 0x014 ∨ off = 0x018 ∨ off = 0x01C)))

/-- Every Feistel command leaves DATA[63:0] unchanged, and its result does not depend on KEY[63:0] (R20, R21). -/
def Obligations.FeistelCommandsIgnoreTheLowHalves : Prop :=
  ∀ (i : Instr) (s : State) (K : BitVec 64), feistelCommand i = true →
    let s' := { s with key := s.key.extractLsb' 64 64 ++ K }
    ∃ t, exec i s = .next t ∧ t.data.extractLsb' 0 64 = s.data.extractLsb' 0 64 ∧
      exec i s' = .next { t with key := s'.key }

/-- R112: whatever transactions the host makes while a command runs, the registers the command works on keep their values
until it completes, and it completes as it would have at once; only OVR, the responses and the free values drawn
differ. -/
def Obligations.BusyCommandIsUndisturbed : Prop :=
  ∀ (s : State) (evs : List Event), Inv s → s.busy = true → (∀ e ∈ evs, fromHost e = true) →
    (∃ m, stepMany evs.length { s with inputs := evs } = .next m ∧
      m = { s with inputs := [], ovr := m.ovr, responses := m.responses, draws := m.draws }) ∧
    ∃ t u, stepMany (evs.length + 1) { s with inputs := evs } = .next t ∧ step { s with inputs := [] } = .next u ∧
      t = { u with ovr := t.ovr, responses := t.responses, draws := t.draws }

/-- Every accepted command completes: from any state, once the inputs that wait are used up the core has had its turn and
the block is idle; a command that was running and met no reset has completed (R120). That the core has every turn once
the inputs are used up is the model's form of the rule's fairness (log entry 1). -/
def Obligations.EveryCommandCompletes : Prop :=
  ∀ s : State, ∃ t, stepMany (s.inputs.length + 1) s = .next t ∧ t.inputs = [] ∧ t.busy = false ∧
    (s.busy = true → Event.reset ∉ s.inputs → t.done = true)

/-! ## Feistel engine -/

/-- NOP changes the lifecycle flags only (R118). -/
def Obligations.NopCompletes : Prop :=
  ∀ s : State, exec .nop s = .next { s with err := .ok, busy := false, done := true }

/-- F_KS writes the schedule of KEY[127:64] into FRK and sets FKV (R160). -/
def Obligations.FeistelScheduleCommand : Prop :=
  ∀ s : State, ∃ file : Vector (Option Subkey) 16,
    exec .fKs s = .next { s with frk := file, fkv := true, err := .ok, busy := false, done := true } ∧
    ∀ i : Fin 16, file[i] = some (keySchedule feistelTables (s.key.extractLsb' 64 64))[i]

/-- Each bit of each subkey, as the key bit it is: PC-2 of the two halves of PC-1, each rotated left by the sum of the
shifts so far, 1, 2, 4, 6, ..., 28 (R133, R134, R136; 90_conflicts.md C1, C4). -/
def Obligations.SubkeyBits : Prop :=
  ∀ t : FeistelTables, feistelTablesOk t = true → ∀ (k : Block64) (n : Fin 16) (j : Fin 48),
    let total := (#v[1, 2, 4, 6, 8, 10, 12, 14, 15, 17, 19, 21, 23, 25, 27, 28] : Vector Nat 16)[n]
    let p := t.pc2[j]
    let q := if p ≤ 28 then (p - 1 + total) % 28 else 28 + (p - 29 + total) % 28
    dbit (keySchedule t k)[n] (j.val + 1) = dbit k (t.pc1.getD q 0)

/-- R137: the halves return after 16 rounds, the parity bits are ignored, and three keys of equal subkeys. -/
def Obligations.KeyScheduleProperties : Prop :=
  (∀ (t : FeistelTables) (k : Block64), cdAfter t k 16 = cdAfter t k 0) ∧
  (∀ t : FeistelTables, feistelTablesOk t = true → ∀ k k' : Block64,
    (∀ n, 1 ≤ n → n ≤ 64 → n % 8 ≠ 0 → dbit k n = dbit k' n) → keySchedule t k = keySchedule t k') ∧
  (∀ i : Fin 16, (keySchedule feistelTables 0x0101010101010101)[i] = 0 ∧
    (keySchedule feistelTables 0xFEFEFEFEFEFEFEFE)[i] = 0xFFFFFFFFFFFF ∧
    (keySchedule feistelTables 0xFFFFFFFFFFFFFFFF)[i] = 0xFFFFFFFFFFFF)

/-- R139: the final permutation undoes the initial one and the other way round, for every table set that keeps the
constraints, which the machine's set does. -/
def Obligations.InitialAndFinalPermutationsAreInverse : Prop :=
  feistelTablesOk feistelTables = true ∧
  ∀ t : FeistelTables, feistelTablesOk t = true → ∀ x : Block64,
    perm t.fp (perm t.ip x) = x ∧ perm t.ip (perm t.fp x) = x

/-- Each S-box lookup by its row and column bits, and the round function from its eight lookups (R142, R144). The order of
the row's bits is an inference that R142 marks as the spec's own: "That the first bit is the high bit of the row is not
stated. It is the spec's reading" (D20; 91_not_in_source.md N5). -/
def Obligations.RoundFunctionLookups : Prop :=
  (∀ (t : FeistelTables) (m : Fin 8) (g : BitVec 6),
    sLookup t m g = (t.sboxes[m].getD (2 * (g.getLsbD 5).toNat + (g.getLsbD 0).toNat) (Vector.replicate 16 0)).getD
      (8 * (g.getLsbD 4).toNat + 4 * (g.getLsbD 3).toNat + 2 * (g.getLsbD 2).toNat + (g.getLsbD 1).toNat) 0) ∧
  (∀ (t : FeistelTables) (R : Half) (K : Subkey), ∃ y : Half,
    (∀ m : Fin 8, y.extractLsb' (28 - 4 * m.val) 4 =
      sLookup t m ((perm t.e R ^^^ K).extractLsb' (42 - 6 * m.val) 6)) ∧
    ∀ j : Fin 32, dbit (roundF t R K) (j.val + 1) = dbit y t.p[j])

/-- R145: one round and its inverse. -/
def Obligations.RoundIsInvertible : Prop :=
  ∀ (t : FeistelTables) (L R : Half) (K : Subkey),
    let r := feistelRound t (L, R) K
    r = (R, L ^^^ roundF t R K) ∧ (r.2 ^^^ roundF t r.1 K, r.1) = (L, R)

/-- R147: decryption undoes encryption, for every key and block and every table set that keeps the constraints. -/
def Obligations.FeistelDecryptionInverts : Prop :=
  (∀ (t : FeistelTables) (x k : Block64), ∃ ks : Vector Subkey 16,
    feistelDec t x k = feistelBlock t x ks ∧ ∀ i : Fin 16, ks[i] = (keySchedule t k)[15 - i.val]) ∧
  (∀ t : FeistelTables, feistelTablesOk t = true → ∀ x k : Block64, feistelDec t (feistelEnc t x k) k = x)

/-- R148: the complement property, for every table set that keeps the constraints. -/
def Obligations.FeistelComplementProperty : Prop :=
  ∀ t : FeistelTables, feistelTablesOk t = true → ∀ x k : Block64, feistelEnc t (~~~x) (~~~k) = ~~~(feistelEnc t x k)

/-- F_ENC and F_DEC on filled round keys: the block transform of DATA[127:64] with the subkeys in order and in reverse
(R161, R162). -/
def Obligations.FeistelBlockCommands : Prop :=
  ∀ (s : State) (ks : Vector Subkey 16), s.fkv = true → (∀ i : Fin 16, s.frk[i] = some ks[i]) →
    exec .fEnc s = .next { s with
      data := feistelBlock feistelTables (s.data.extractLsb' 64 64) ks ++ s.data.extractLsb' 0 64,
      err := .ok, busy := false, done := true } ∧
    exec .fDec s = .next { s with
      data := feistelBlock feistelTables (s.data.extractLsb' 64 64) ks.reverse ++ s.data.extractLsb' 0 64,
      err := .ok, busy := false, done := true }

/-- F_RND with any of the sixteen operands: one round on DATA0 and DATA1 with the subkey RND (R165, R145). -/
def Obligations.FeistelRoundCommand : Prop :=
  ∀ (s : State) (rnd : BitVec 4) (K : Subkey), s.fkv = true → s.frk[rnd.toFin] = some K → ∃ D : Block128,
    exec (.fRnd rnd) s = .next { s with data := D, err := .ok, busy := false, done := true } ∧
    wordOf D 0 = wordOf s.data 1 ∧ wordOf D 1 = wordOf s.data 0 ^^^ roundF feistelTables (wordOf s.data 1) K ∧
    wordOf D 2 = wordOf s.data 2 ∧ wordOf D 3 = wordOf s.data 3

/-- F_IP, F_FP and F_SWAP bit by bit and word by word (R163, R164, R166). -/
def Obligations.FeistelPermutationCommands : Prop :=
  ∀ s : State,
    (∃ D : Block128, exec .fIp s = .next { s with data := D, err := .ok, busy := false, done := true } ∧
      (∀ j : Fin 64, dbit D (j.val + 1) = dbit s.data tblIp[j]) ∧ D.extractLsb' 0 64 = s.data.extractLsb' 0 64) ∧
    (∃ D : Block128, exec .fFp s = .next { s with data := D, err := .ok, busy := false, done := true } ∧
      (∀ j : Fin 64, dbit D (j.val + 1) = dbit s.data tblFp[j]) ∧ D.extractLsb' 0 64 = s.data.extractLsb' 0 64) ∧
    (∃ D : Block128, exec .fSwap s = .next { s with data := D, err := .ok, busy := false, done := true } ∧
      wordOf D 0 = wordOf s.data 1 ∧ wordOf D 1 = wordOf s.data 0 ∧
      wordOf D 2 = wordOf s.data 2 ∧ wordOf D 3 = wordOf s.data 3)

/-- R167: the whole-block commands and their layer sequences leave the same DATA and STATUS. The states are equal whole,
CMDL too, because `execAll` completes the commands and accepts none: on the port each acceptance writes CMDL (R111). -/
def Obligations.FeistelLayersEqualTheBlockCommands : Prop :=
  ∀ s : State, s.fkv = true → (∀ i : Fin 16, s.frk[i].isSome = true) →
    exec .fEnc s = execAll (feistelLayers [0, 1, 2, 3, 4, 5, 6, 7, 8, 9, 10, 11, 12, 13, 14, 15]) s ∧
    exec .fDec s = execAll (feistelLayers [15, 14, 13, 12, 11, 10, 9, 8, 7, 6, 5, 4, 3, 2, 1, 0]) s ∧
    ∀ i ∈ [Instr.fEnc, Instr.fDec], ∃ t, exec i s = .next t ∧
      statusWord t = (0x102 ||| if s.skv then 0x200 else 0) ||| if s.ovr then 0x4 else 0

/-! ## SPN engine -/

/-- R204: the laws of multiplication in GF(2^8). -/
def Obligations.GaloisFieldLaws : Prop :=
  (∀ a b : Byte, gmul a b = gmul b a) ∧ (∀ b : Byte, gmul 0 b = 0) ∧ (∀ b : Byte, gmul 1 b = b) ∧
  (∀ b : Byte, gmul 2 b = xtime b) ∧ (∀ b : Byte, gmul 3 b = xtime b ^^^ b) ∧
  (∀ a b c : Byte, gmul a (b ^^^ c) = gmul a b ^^^ gmul a c) ∧
  (∀ a b c : Byte, gmul (a ^^^ b) c = gmul a c ^^^ gmul b c) ∧
  (∀ a : Byte, a ≠ 0 → ∃ b : Byte, gmul a b = 1)

/-- gmul is the product of the polynomials reduced modulo 0x11B: the unreduced product, by shifts and XORs, differs from
it by a multiple of 0x11B of the same kind (R201). -/
def Obligations.GmulIsTheReducedProduct : Prop :=
  let times := fun (x : BitVec 16) (y : Byte) =>
    (List.range 8).foldl (fun (p : BitVec 16) i => if y.getLsbD i then p ^^^ (x <<< i) else p) 0
  ∀ a b : Byte, ∃ q : Byte, times (a.setWidth 16) b = (gmul a b).setWidth 16 ^^^ times 0x11B q

/-- The default S-box is the affine map of the field inverse, and it and its table of inverses undo each other (R205,
R206). -/
def Obligations.SboxConstruction : Prop :=
  byteLookup tblSbox 0 = 0x63 ∧
  (∀ a : Byte, a ≠ 0 → ∃ b : Byte, gmul a b = 1 ∧ ∀ i : Fin 8, (byteLookup tblSbox a).getLsbD i.val =
    (b.getLsbD i.val ^^ b.getLsbD ((i.val + 4) % 8) ^^ b.getLsbD ((i.val + 5) % 8) ^^ b.getLsbD ((i.val + 6) % 8) ^^
      b.getLsbD ((i.val + 7) % 8) ^^ (0x63 : Byte).getLsbD i.val)) ∧
  (∀ a : Byte, byteLookup tblInvSbox (byteLookup tblSbox a) = a ∧ byteLookup tblSbox (byteLookup tblInvSbox a) = a)

/-- R207 and R208, as S_SUB and S_ISUB do them, and that InvSubBytes undoes SubBytes for every table set that keeps the
constraints (R206). -/
def Obligations.SubstitutionCommands : Prop :=
  (∀ s : State,
    (∃ D : Block128, exec .sSub s = .next { s with data := D, err := .ok, busy := false, done := true } ∧
      ∀ r c : Fin 4, cell D r c = byteLookup tblSbox (cell s.data r c)) ∧
    (∃ D : Block128, exec .sIsub s = .next { s with data := D, err := .ok, busy := false, done := true } ∧
      ∀ r c : Fin 4, cell D r c = byteLookup tblInvSbox (cell s.data r c))) ∧
  ∀ t : SpnTables, spnTablesOk t = true → ∀ S : Block128, invSubBytes t (subBytes t S) = S

/-- R209 and R210, as S_SHR and S_ISHR do them, and that the second undoes the first. -/
def Obligations.RowShiftCommands : Prop :=
  (∀ s : State,
    (∃ D : Block128, exec .sShr s = .next { s with data := D, err := .ok, busy := false, done := true } ∧
      ∀ r c : Fin 4, cell D r c = cell s.data r ((c.val + r.val) % 4)) ∧
    (∃ D : Block128, exec .sIshr s = .next { s with data := D, err := .ok, busy := false, done := true } ∧
      ∀ r c : Fin 4, cell D r ((c.val + r.val) % 4) = cell s.data r c)) ∧
  (∀ (S : Block128) (c : Fin 4), cell (shiftRows S) 0 c = cell S 0 c) ∧
  ∀ S : Block128, invShiftRows (shiftRows S) = S

/-- R211, R212 and R213, as S_MIX and S_IMIX do them: coefficient j of the circulant's first row multiplies the byte j rows
below, and InvMixColumns undoes MixColumns for every table set that keeps the constraints. -/
def Obligations.ColumnMixCommands : Prop :=
  (∀ s : State,
    (∃ D : Block128, exec .sMix s = .next { s with data := D, err := .ok, busy := false, done := true } ∧
      ∀ r c : Fin 4, cell D r c = gmul 0x02 (cell s.data r c) ^^^ gmul 0x03 (cell s.data ((r.val + 1) % 4) c) ^^^
        gmul 0x01 (cell s.data ((r.val + 2) % 4) c) ^^^ gmul 0x01 (cell s.data ((r.val + 3) % 4) c)) ∧
    (∃ D : Block128, exec .sImix s = .next { s with data := D, err := .ok, busy := false, done := true } ∧
      ∀ r c : Fin 4, cell D r c = gmul 0x0E (cell s.data r c) ^^^ gmul 0x0B (cell s.data ((r.val + 1) % 4) c) ^^^
        gmul 0x0D (cell s.data ((r.val + 2) % 4) c) ^^^ gmul 0x09 (cell s.data ((r.val + 3) % 4) c))) ∧
  ∀ t : SpnTables, spnTablesOk t = true → ∀ S : Block128, invMixColumns t (mixColumns t S) = S

/-- S_ARK with an operand of 0 to 10 on filled round keys: the XOR word by word and byte by byte, undone by a second one
(R214, R249). -/
def Obligations.AddRoundKeyCommand : Prop :=
  ∀ (s : State) (rnd : BitVec 4) (w : Fin 4 → Word), rnd.toNat ≤ 10 → s.skv = true →
    (∀ c : Fin 4, s.srk[4 * rnd.toNat + c.val]? = some (some (w c))) →
    (∃ D : Block128, exec (.sArk rnd) s = .next { s with data := D, err := .ok, busy := false, done := true } ∧
      (∀ c : Fin 4, wordOf D c = wordOf s.data c ^^^ w c) ∧
      ∀ r c : Fin 4, cell D r c = cell s.data r c ^^^ wbyte (w c) r) ∧
    execAll [.sArk rnd, .sArk rnd] s = .next { s with err := .ok, busy := false, done := true }

/-- R87: S_ARK with RND in 11..15 is a legal word that finishes BAD_ROUND and changes nothing else; F_RND has no such
case. -/
def Obligations.BadRound : Prop :=
  (∀ rnd : BitVec 4, decode (0x00000029 ||| (rnd.setWidth 32 <<< 8)) = .ok (.sArk rnd) ∧
    decode (0x00000015 ||| (rnd.setWidth 32 <<< 8)) = .ok (.fRnd rnd)) ∧
  (∀ (s : State) (rnd : BitVec 4), 11 ≤ rnd.toNat →
    exec (.sArk rnd) s = .next { s with err := .badRound, busy := false, done := true }) ∧
  (∀ (s t : State) (rnd : BitVec 4), rnd.toNat ≤ 10 → exec (.sArk rnd) s = .next t → t.err ≠ .badRound) ∧
  (∀ (s t : State) (rnd : BitVec 4), exec (.fRnd rnd) s = .next t → t.err ≠ .badRound)

/-- R224 and R225, as S_KX does them: the four words of the key, then the recursion. -/
def Obligations.KeyExpansionCommand : Prop :=
  ∀ s : State, ∃ ws : Vector Word 44,
    exec .sKx s = .next { s with srk := ws.map some, skv := true, err := .ok, busy := false, done := true } ∧
    (∀ j : Fin 4, ws.getD j.val 0 = s.key.extractLsb' (96 - 32 * j.val) 32) ∧
    ∀ i, 4 ≤ i → i < 44 → ws.getD i 0 = ws.getD (i - 4) 0 ^^^
      if i % 4 = 0 then addRcon spnTables (subWord spnTables (rotWord (ws.getD (i - 1) 0))) (i / 4)
      else ws.getD (i - 1) 0

/-- R221, R222 and R223 byte by byte, and the round constants from 0x01 by doubling (R220). -/
def Obligations.KeyExpansionWordSteps : Prop :=
  (∀ (w : Word) (k : Fin 4), wbyte (rotWord w) k = wbyte w ((k.val + 1) % 4)) ∧
  (∀ (w : Word) (k : Fin 4), wbyte (subWord spnTables w) k = byteLookup tblSbox (wbyte w k)) ∧
  (∀ (w : Word) (j : Fin 10), wbyte (addRcon spnTables w (j.val + 1)) 0 = wbyte w 0 ^^^ tblRcon[j] ∧
    ∀ k : Fin 4, k ≠ 0 → wbyte (addRcon spnTables w (j.val + 1)) k = wbyte w k) ∧
  tblRcon[0] = 0x01 ∧ ∀ j : Fin 9, tblRcon[j.val + 1] = xtime tblRcon[j.val]

/-- S_ENC and S_DEC on filled round keys (R241, R242). -/
def Obligations.SpnBlockCommands : Prop :=
  ∀ (s : State) (ws : Vector Word 44), s.skv = true → (∀ j : Fin 44, s.srk[j] = some ws[j]) →
    exec .sEnc s = .next { s with data := spnEnc spnTables ws s.data, err := .ok, busy := false, done := true } ∧
    exec .sDec s = .next { s with data := spnDec spnTables ws s.data, err := .ok, busy := false, done := true }

/-- R232: decryption undoes encryption, for every state, every 44 words (the expansion of any key is one case) and every
table set that keeps the constraints (R206, R213), which the machine's set does. -/
def Obligations.SpnDecryptionInverts : Prop :=
  spnTablesOk spnTables = true ∧
  ∀ t : SpnTables, spnTablesOk t = true → ∀ (ws : Vector Word 44) (S : Block128), spnDec t ws (spnEnc t ws S) = S

/-- R250: the whole-block commands and their layer sequences leave the same DATA and STATUS. The states are equal whole,
CMDL too, because `execAll` completes the commands and accepts none: on the port each acceptance writes CMDL (R111). -/
def Obligations.SpnLayersEqualTheBlockCommands : Prop :=
  ∀ s : State, s.skv = true → (∀ j : Fin 44, s.srk[j].isSome = true) →
    exec .sEnc s = execAll spnEncLayers s ∧ exec .sDec s = execAll spnDecLayers s ∧
    ∀ i ∈ [Instr.sEnc, Instr.sDec], ∃ t, exec i s = .next t ∧
      statusWord t = (0x202 ||| if s.fkv then 0x100 else 0) ||| if s.ovr then 0x4 else 0

/-- On the machine, decryption after encryption leaves the whole state as it was but for the lifecycle flags, for both
engines (R162, R242). -/
def Obligations.DecryptionRestoresTheState : Prop :=
  ∀ s : State,
    (s.fkv = true → (∀ i : Fin 16, s.frk[i].isSome = true) →
      execAll [.fEnc, .fDec] s = .next { s with err := .ok, busy := false, done := true }) ∧
    (s.skv = true → (∀ j : Fin 44, s.srk[j].isSome = true) →
      execAll [.sEnc, .sDec] s = .next { s with err := .ok, busy := false, done := true })

/-- The layer commands undo each other on the machine (the corner cases of R163, R164, R166, R244 to R248). -/
def Obligations.LayerCommandsUndoEachOther : Prop :=
  ∀ (s : State) (is : List Instr),
    is ∈ ([[.fIp, .fFp], [.fFp, .fIp], [.fSwap, .fSwap], [.sSub, .sIsub], [.sShr, .sIshr], [.sMix, .sImix],
      [.sShr, .sShr, .sShr, .sShr]] : List (List Instr)) →
    execAll is s = .next { s with err := .ok, busy := false, done := true }

/-! ## The host's side -/

/-- `bnz STATUS, 0x1, L`, the loop of `poll`: it returns to L while the block is busy and goes on when it is not, and it
changes nothing of the block (R91, R92). -/
def Obligations.PollLoopsWhileBusy : Prop :=
  ∀ (prog : List HostStmt) (h : Hosted) (l : HostLabel) (at_ : Nat),
    prog[h.pc]? = some (.bnz (.reg .status) 0x1 l) → labelIndex prog l = some at_ →
    hostTurn prog h = some ⟨if h.block.busy then at_ else h.pc + 1,
      { h.block with responses := .data (statusWord h.block) :: h.block.responses }⟩

/-- Hex conversion and padding (R270, R272, R273): the digits of a byte, high nibble first and uppercase; each pair of
digits read back, and which texts are hex; the length and every byte of the padding; the lenient unpad, which looks at the
last byte alone. That unpad of nothing is nothing is the spec's own choice (D36). -/
def Obligations.HexAndPadding : Prop :=
  let digits := ['0', '1', '2', '3', '4', '5', '6', '7', '8', '9', 'A', 'B', 'C', 'D', 'E', 'F']
  (∀ (b : Byte) (bs : List Byte),
    bytesToHex (b :: bs) = digits.getD (b.toNat / 16) ' ' :: digits.getD (b.toNat % 16) ' ' :: bytesToHex bs) ∧
  (∀ (h l : Fin 16) (cs : List Char), hexToBytes (digits.getD h.val ' ' :: digits.getD l.val ' ' :: cs) =
    (hexToBytes cs).map fun bs => BitVec.ofNat 8 (16 * h.val + l.val) :: bs) ∧
  (∀ bs : List Byte, hexToBytes (bytesToHex bs) = some bs) ∧
  (∀ cs : List Char, (hexToBytes cs).isSome = true ↔
    cs.length % 2 = 0 ∧ ∀ c ∈ cs, ('0' ≤ c ∧ c ≤ '9') ∨ ('A' ≤ c ∧ c ≤ 'F') ∨ ('a' ≤ c ∧ c ≤ 'f')) ∧
  (∀ cs : List Char, hexToBytes (cs.map Char.toUpper) = hexToBytes cs) ∧
  (∀ (e : Engine) (bs : List Byte), let padded := pad bs e.blockBytes
    padded.take bs.length = bs ∧ padded.length = (bs.length / e.blockBytes + 1) * e.blockBytes ∧
    (∀ b ∈ padded.drop bs.length, b.toNat = e.blockBytes - bs.length % e.blockBytes) ∧
    unpad padded e.blockBytes = bs) ∧
  (∀ (e : Engine) (bs : List Byte) (last : Byte),
    (last.toNat = 0 ∨ e.blockBytes < last.toNat → unpad (bs ++ [last]) e.blockBytes = bs ++ [last]) ∧
    (1 ≤ last.toNat → last.toNat ≤ e.blockBytes →
      unpad (bs ++ [last]) e.blockBytes = (bs ++ [last]).take (bs.length + 1 - last.toNat))) ∧
  ∀ e : Engine, unpad [] e.blockBytes = []

/-- What a driver call refuses, and in which order (R271, R274, R275). That the key's error wins over a malformed
ciphertext is the spec's own choice, D42, of which I19 says that a claim should not depend on it: no other statement
does. -/
def Obligations.DriverRefusals : Prop :=
  ∀ (e : Engine) (text key : List Char) (s : State),
    let keyOk := ∃ k, hexToBytes key = some k ∧ k.length = e.blockBytes
    let cipherOk := ∃ c, hexToBytes text = some c ∧ c.length % e.blockBytes = 0
    let textOk := ∀ c ∈ text, c.toNat ≤ 0xFF
    (¬ keyOk → driverEncrypt e text key s = .error .invalidKeyFormat ∧
      driverDecrypt e text key s = .error .invalidKeyFormat) ∧
    (keyOk → ¬ textOk → driverEncrypt e text key s = .error .unencodableText) ∧
    (keyOk → ¬ cipherOk → driverDecrypt e text key s = .error .invalidCiphertextFormat)

/-- R282, the round trip through the block: on any idle blocks without a pending OVR, decrypting what encrypt gave is the
plaintext, for both engines. How the driver runs a command is the model's sequence of turns (log entry 11). -/
def Obligations.DriverRoundTrip : Prop :=
  ∀ (e : Engine) (text key : List Char) (s s' : State),
    s.busy = false → s.ovr = false → s'.busy = false → s'.ovr = false → (∀ c ∈ text, c.toNat ≤ 0xFF) →
    (∃ k, hexToBytes key = some k ∧ k.length = e.blockBytes) →
    ∃ cipher t t', driverEncrypt e text key s = .ok (cipher, t) ∧ driverDecrypt e cipher key s' = .ok (text, t')
end

