-- ==== Sys2Proof/Laws/Bits.lean ====
section
/-! SUPPORT. What the bit and byte views read back from what they build. -/

namespace Sys2Proof.Machine

/-- Bit i of Perm_T(x), counted from 0 at the least significant end, is the input bit T[m-1-i]. -/
theorem getLsbD_perm {N m : Nat} (T : Vector Nat m) (x : BitVec N) (i : Nat) (h : i < m) :
    (perm T x).getLsbD i = dbit x (T[m - 1 - i]'(by omega)) := by
  simp [perm, h, Fin.rev]
  congr 1
  have : m - (i + 1) = m - 1 - i := by omega
  simp [this]

/-- Output bit j (DES numbering) of Perm_T(x) is input bit T[j] (R10). -/
theorem dbit_perm {N m : Nat} (T : Vector Nat m) (x : BitVec N) (j : Nat) (h : j < m) :
    dbit (perm T x) (j + 1) = dbit x T[j] := by
  have hi : m - (j + 1) < m := by omega
  have e : m - 1 - (m - (j + 1)) = j := by omega
  simp [dbit.eq_1 (N := m), getLsbD_perm T x _ hi, e]

/-- Two values with the same DES bits 1..N are equal. -/
theorem eq_of_dbit_eq {N : Nat} {x y : BitVec N} (h : ∀ j < N, dbit x (j + 1) = dbit y (j + 1)) : x = y := by
  apply BitVec.eq_of_getLsbD_eq
  intro i hi
  have := h (N - 1 - i) (by omega)
  have e : N - (N - 1 - i + 1) = i := by omega
  simpa [dbit, e] using this

/-- Bits of four equal parts put together, the first part the most significant. -/
theorem getLsbD_append4 {n : Nat} (a b c d : BitVec n) (i : Nat) :
    (a ++ b ++ c ++ d).getLsbD i =
      if i < n then d.getLsbD i else if i < 2 * n then c.getLsbD (i - n)
      else if i < 3 * n then b.getLsbD (i - 2 * n) else a.getLsbD (i - 3 * n) := by
  simp only [BitVec.getLsbD_append]
  split_ifs <;> first | rfl | omega | (congr 1; omega)

/-- The words of a 128-bit value built from words. -/
theorem wordOf_ofWords (w : Nat → Word) (k : Nat) (h : k < 4) : wordOf (ofWords w) k = w k := by
  apply BitVec.eq_of_getLsbD_eq
  intro i hi
  have e : (ofWords w).getLsbD (96 - 32 * k + i) = (w 0 ++ w 1 ++ w 2 ++ w 3).getLsbD (96 - 32 * k + i) := rfl
  simp only [wordOf, BitVec.getLsbD_extractLsb', hi, decide_true, Bool.true_and, e, getLsbD_append4]
  obtain rfl | rfl | rfl | rfl : k = 0 ∨ k = 1 ∨ k = 2 ∨ k = 3 := by omega
  all_goals split_ifs <;> first | omega | (congr 1; omega)

/-- A 128-bit value is made of its words. -/
theorem ofWords_wordOf (v : Block128) : ofWords (wordOf v) = v := by
  apply BitVec.eq_of_getLsbD_eq
  intro i hi
  have e : (ofWords (wordOf v)).getLsbD i = (wordOf v 0 ++ wordOf v 1 ++ wordOf v 2 ++ wordOf v 3).getLsbD i := rfl
  rw [e, getLsbD_append4]
  split_ifs
  all_goals
    rw [wordOf, BitVec.getLsbD_extractLsb', decide_eq_true (by omega), Bool.true_and]
    congr 1
    omega

/-- Two 128-bit values with the same words are equal. -/
theorem eq_of_wordOf_eq {u v : Block128} (h : ∀ k < 4, wordOf u k = wordOf v k) : u = v := by
  rw [← ofWords_wordOf u, ← ofWords_wordOf v]
  simp [ofWords, h]

/-- Replacing word k changes word k only (R60, R64). -/
theorem wordOf_setWord (v : Block128) (k : Nat) (w : Word) (j : Nat) (h : j < 4) :
    wordOf (setWord v k w) j = if j = k then w else wordOf v j := by
  simp [setWord, wordOf_ofWords _ _ h]

/-- The bytes of a word built from bytes. -/
theorem wbyte_wordOfBytes (b : Nat → Byte) (k : Nat) (h : k < 4) : wbyte (wordOfBytes b) k = b k := by
  apply BitVec.eq_of_getLsbD_eq
  intro i hi
  have e : (wordOfBytes b).getLsbD (24 - 8 * k + i) = (b 0 ++ b 1 ++ b 2 ++ b 3).getLsbD (24 - 8 * k + i) := rfl
  simp only [wbyte, BitVec.getLsbD_extractLsb', hi, decide_true, Bool.true_and, e, getLsbD_append4]
  obtain rfl | rfl | rfl | rfl : k = 0 ∨ k = 1 ∨ k = 2 ∨ k = 3 := by omega
  all_goals split_ifs <;> first | omega | (congr 1; omega)

/-- Byte r of word c is state cell (r, c) (R22). -/
theorem wbyte_wordOf (v : Block128) (r c : Nat) (hr : r < 4) (hc : c < 4) : wbyte (wordOf v c) r = cell v r c := by
  apply BitVec.eq_of_getLsbD_eq
  intro i hi
  have h : 24 - 8 * r + i < 32 := by omega
  simp only [wbyte, wordOf, cell, byteOf, BitVec.getLsbD_extractLsb', hi, h, decide_true, Bool.true_and]
  congr 1
  omega

/-- The cells of a block built from cells (R22). -/
theorem cell_ofCells (S : Nat → Nat → Byte) (r c : Nat) (hr : r < 4) (hc : c < 4) : cell (ofCells S) r c = S r c := by
  rw [← wbyte_wordOf _ r c hr hc, ofCells, wordOf_ofWords _ c hc, wbyte_wordOfBytes _ r hr]

/-- A word is made of its bytes. -/
theorem wordOfBytes_wbyte (w : Word) : wordOfBytes (wbyte w) = w := by
  apply BitVec.eq_of_getLsbD_eq
  intro i hi
  have e : (wordOfBytes (wbyte w)).getLsbD i = (wbyte w 0 ++ wbyte w 1 ++ wbyte w 2 ++ wbyte w 3).getLsbD i := rfl
  rw [e, getLsbD_append4]
  split_ifs
  all_goals
    rw [wbyte, BitVec.getLsbD_extractLsb', decide_eq_true (by omega), Bool.true_and]
    congr 1
    omega

/-- Two blocks with the same state cells are equal. -/
theorem eq_of_cell_eq {u v : Block128} (h : ∀ r < 4, ∀ c < 4, cell u r c = cell v r c) : u = v := by
  apply eq_of_wordOf_eq
  intro c hc
  rw [← wordOfBytes_wbyte (wordOf u c), ← wordOfBytes_wbyte (wordOf v c)]
  simp [wordOfBytes, wbyte_wordOf, hc, h]

end Sys2Proof.Machine
end

