-- ==== Sys2Proof/Laws/State.lean ====
section
/-! SUPPORT. For each update of State, what each field is after it: true by rfl, so that no proof unfolds a record update. -/

namespace Sys2Proof.Machine

/-! `finish` -/

@[simp] theorem finish_key (c : ErrCode) (s : State) : (finish c s).key = s.key := rfl
@[simp] theorem finish_data (c : ErrCode) (s : State) : (finish c s).data = s.data := rfl
@[simp] theorem finish_frk (c : ErrCode) (s : State) : (finish c s).frk = s.frk := rfl
@[simp] theorem finish_srk (c : ErrCode) (s : State) : (finish c s).srk = s.srk := rfl
@[simp] theorem finish_fkv (c : ErrCode) (s : State) : (finish c s).fkv = s.fkv := rfl
@[simp] theorem finish_skv (c : ErrCode) (s : State) : (finish c s).skv = s.skv := rfl
@[simp] theorem finish_busy (c : ErrCode) (s : State) : (finish c s).busy = false := rfl
@[simp] theorem finish_done (c : ErrCode) (s : State) : (finish c s).done = true := rfl
@[simp] theorem finish_ovr (c : ErrCode) (s : State) : (finish c s).ovr = s.ovr := rfl
@[simp] theorem finish_err (c : ErrCode) (s : State) : (finish c s).err = c := rfl
@[simp] theorem finish_cmdl (c : ErrCode) (s : State) : (finish c s).cmdl = s.cmdl := rfl
@[simp] theorem finish_inputs (c : ErrCode) (s : State) : (finish c s).inputs = s.inputs := rfl
@[simp] theorem finish_responses (c : ErrCode) (s : State) : (finish c s).responses = s.responses := rfl
@[simp] theorem finish_draws (c : ErrCode) (s : State) : (finish c s).draws = s.draws := rfl

/-! `accept` -/

@[simp] theorem accept_key (v : Word) (s : State) : (accept v s).key = s.key := rfl
@[simp] theorem accept_data (v : Word) (s : State) : (accept v s).data = s.data := rfl
@[simp] theorem accept_frk (v : Word) (s : State) : (accept v s).frk = s.frk := rfl
@[simp] theorem accept_srk (v : Word) (s : State) : (accept v s).srk = s.srk := rfl
@[simp] theorem accept_fkv (v : Word) (s : State) : (accept v s).fkv = s.fkv := rfl
@[simp] theorem accept_skv (v : Word) (s : State) : (accept v s).skv = s.skv := rfl
@[simp] theorem accept_busy (v : Word) (s : State) : (accept v s).busy = true := rfl
@[simp] theorem accept_done (v : Word) (s : State) : (accept v s).done = false := rfl
@[simp] theorem accept_ovr (v : Word) (s : State) : (accept v s).ovr = s.ovr := rfl
@[simp] theorem accept_err (v : Word) (s : State) : (accept v s).err = .ok := rfl
@[simp] theorem accept_cmdl (v : Word) (s : State) : (accept v s).cmdl = v := rfl
@[simp] theorem accept_inputs (v : Word) (s : State) : (accept v s).inputs = s.inputs := rfl
@[simp] theorem accept_responses (v : Word) (s : State) : (accept v s).responses = s.responses := rfl
@[simp] theorem accept_draws (v : Word) (s : State) : (accept v s).draws = s.draws := rfl

/-! `overrun` -/

@[simp] theorem overrun_key (s : State) : (overrun s).key = s.key := rfl
@[simp] theorem overrun_data (s : State) : (overrun s).data = s.data := rfl
@[simp] theorem overrun_frk (s : State) : (overrun s).frk = s.frk := rfl
@[simp] theorem overrun_srk (s : State) : (overrun s).srk = s.srk := rfl
@[simp] theorem overrun_fkv (s : State) : (overrun s).fkv = s.fkv := rfl
@[simp] theorem overrun_skv (s : State) : (overrun s).skv = s.skv := rfl
@[simp] theorem overrun_busy (s : State) : (overrun s).busy = s.busy := rfl
@[simp] theorem overrun_done (s : State) : (overrun s).done = s.done := rfl
@[simp] theorem overrun_ovr (s : State) : (overrun s).ovr = true := rfl
@[simp] theorem overrun_err (s : State) : (overrun s).err = s.err := rfl
@[simp] theorem overrun_cmdl (s : State) : (overrun s).cmdl = s.cmdl := rfl
@[simp] theorem overrun_inputs (s : State) : (overrun s).inputs = s.inputs := rfl
@[simp] theorem overrun_responses (s : State) : (overrun s).responses = s.responses := rfl
@[simp] theorem overrun_draws (s : State) : (overrun s).draws = s.draws := rfl

/-! `writeStatus` -/

@[simp] theorem writeStatus_key (v : Word) (s : State) : (writeStatus v s).key = s.key := rfl
@[simp] theorem writeStatus_data (v : Word) (s : State) : (writeStatus v s).data = s.data := rfl
@[simp] theorem writeStatus_frk (v : Word) (s : State) : (writeStatus v s).frk = s.frk := rfl
@[simp] theorem writeStatus_srk (v : Word) (s : State) : (writeStatus v s).srk = s.srk := rfl
@[simp] theorem writeStatus_fkv (v : Word) (s : State) : (writeStatus v s).fkv = s.fkv := rfl
@[simp] theorem writeStatus_skv (v : Word) (s : State) : (writeStatus v s).skv = s.skv := rfl
@[simp] theorem writeStatus_busy (v : Word) (s : State) : (writeStatus v s).busy = s.busy := rfl
@[simp] theorem writeStatus_done (v : Word) (s : State) : (writeStatus v s).done = s.done := rfl
@[simp] theorem writeStatus_ovr (v : Word) (s : State) : (writeStatus v s).ovr = (s.ovr && !v.getLsbD 2) := rfl
@[simp] theorem writeStatus_err (v : Word) (s : State) : (writeStatus v s).err = s.err := rfl
@[simp] theorem writeStatus_cmdl (v : Word) (s : State) : (writeStatus v s).cmdl = s.cmdl := rfl
@[simp] theorem writeStatus_inputs (v : Word) (s : State) : (writeStatus v s).inputs = s.inputs := rfl
@[simp] theorem writeStatus_responses (v : Word) (s : State) : (writeStatus v s).responses = s.responses := rfl
@[simp] theorem writeStatus_draws (v : Word) (s : State) : (writeStatus v s).draws = s.draws := rfl

/-! `setFblk` -/

@[simp] theorem setFblk_key (s : State) (x : Block64) : (s.setFblk x).key = s.key := rfl
@[simp] theorem setFblk_data (s : State) (x : Block64) : (s.setFblk x).data = x ++ s.data.extractLsb' 0 64 := rfl
@[simp] theorem setFblk_frk (s : State) (x : Block64) : (s.setFblk x).frk = s.frk := rfl
@[simp] theorem setFblk_srk (s : State) (x : Block64) : (s.setFblk x).srk = s.srk := rfl
@[simp] theorem setFblk_fkv (s : State) (x : Block64) : (s.setFblk x).fkv = s.fkv := rfl
@[simp] theorem setFblk_skv (s : State) (x : Block64) : (s.setFblk x).skv = s.skv := rfl
@[simp] theorem setFblk_busy (s : State) (x : Block64) : (s.setFblk x).busy = s.busy := rfl
@[simp] theorem setFblk_done (s : State) (x : Block64) : (s.setFblk x).done = s.done := rfl
@[simp] theorem setFblk_ovr (s : State) (x : Block64) : (s.setFblk x).ovr = s.ovr := rfl
@[simp] theorem setFblk_err (s : State) (x : Block64) : (s.setFblk x).err = s.err := rfl
@[simp] theorem setFblk_cmdl (s : State) (x : Block64) : (s.setFblk x).cmdl = s.cmdl := rfl
@[simp] theorem setFblk_inputs (s : State) (x : Block64) : (s.setFblk x).inputs = s.inputs := rfl
@[simp] theorem setFblk_responses (s : State) (x : Block64) : (s.setFblk x).responses = s.responses := rfl
@[simp] theorem setFblk_draws (s : State) (x : Block64) : (s.setFblk x).draws = s.draws := rfl

/-! `setData` -/

@[simp] theorem setData_key (s : State) (S : Block128) : (s.setData S).key = s.key := rfl
@[simp] theorem setData_data (s : State) (S : Block128) : (s.setData S).data = S := rfl
@[simp] theorem setData_frk (s : State) (S : Block128) : (s.setData S).frk = s.frk := rfl
@[simp] theorem setData_srk (s : State) (S : Block128) : (s.setData S).srk = s.srk := rfl
@[simp] theorem setData_fkv (s : State) (S : Block128) : (s.setData S).fkv = s.fkv := rfl
@[simp] theorem setData_skv (s : State) (S : Block128) : (s.setData S).skv = s.skv := rfl
@[simp] theorem setData_busy (s : State) (S : Block128) : (s.setData S).busy = s.busy := rfl
@[simp] theorem setData_done (s : State) (S : Block128) : (s.setData S).done = s.done := rfl
@[simp] theorem setData_ovr (s : State) (S : Block128) : (s.setData S).ovr = s.ovr := rfl
@[simp] theorem setData_err (s : State) (S : Block128) : (s.setData S).err = s.err := rfl
@[simp] theorem setData_cmdl (s : State) (S : Block128) : (s.setData S).cmdl = s.cmdl := rfl
@[simp] theorem setData_inputs (s : State) (S : Block128) : (s.setData S).inputs = s.inputs := rfl
@[simp] theorem setData_responses (s : State) (S : Block128) : (s.setData S).responses = s.responses := rfl
@[simp] theorem setData_draws (s : State) (S : Block128) : (s.setData S).draws = s.draws := rfl

/-! `drew` -/

@[simp] theorem drew_key (s : State) (b : Bool) : (s.drew b).key = s.key := rfl
@[simp] theorem drew_data (s : State) (b : Bool) : (s.drew b).data = s.data := rfl
@[simp] theorem drew_frk (s : State) (b : Bool) : (s.drew b).frk = s.frk := rfl
@[simp] theorem drew_srk (s : State) (b : Bool) : (s.drew b).srk = s.srk := rfl
@[simp] theorem drew_fkv (s : State) (b : Bool) : (s.drew b).fkv = s.fkv := rfl
@[simp] theorem drew_skv (s : State) (b : Bool) : (s.drew b).skv = s.skv := rfl
@[simp] theorem drew_busy (s : State) (b : Bool) : (s.drew b).busy = s.busy := rfl
@[simp] theorem drew_done (s : State) (b : Bool) : (s.drew b).done = s.done := rfl
@[simp] theorem drew_ovr (s : State) (b : Bool) : (s.drew b).ovr = s.ovr := rfl
@[simp] theorem drew_err (s : State) (b : Bool) : (s.drew b).err = s.err := rfl
@[simp] theorem drew_cmdl (s : State) (b : Bool) : (s.drew b).cmdl = s.cmdl := rfl
@[simp] theorem drew_inputs (s : State) (b : Bool) : (s.drew b).inputs = s.inputs := rfl
@[simp] theorem drew_responses (s : State) (b : Bool) : (s.drew b).responses = s.responses := rfl
@[simp] theorem drew_draws (s : State) (b : Bool) : (s.drew b).draws = if b then s.draws + 1 else s.draws := rfl

/-! `writeKey` -/

@[simp] theorem writeKey_key (k : Fin 4) (v : Word) (s : State) : (writeKey k v s).key = setWord s.key k v := rfl
@[simp] theorem writeKey_data (k : Fin 4) (v : Word) (s : State) : (writeKey k v s).data = s.data := rfl
@[simp] theorem writeKey_frk (k : Fin 4) (v : Word) (s : State) : (writeKey k v s).frk = s.frk := rfl
@[simp] theorem writeKey_srk (k : Fin 4) (v : Word) (s : State) : (writeKey k v s).srk = s.srk := rfl
@[simp] theorem writeKey_fkv (k : Fin 4) (v : Word) (s : State) : (writeKey k v s).fkv = (s.fkv && decide (2 ≤ k.val)) := rfl
@[simp] theorem writeKey_skv (k : Fin 4) (v : Word) (s : State) : (writeKey k v s).skv = false := rfl
@[simp] theorem writeKey_busy (k : Fin 4) (v : Word) (s : State) : (writeKey k v s).busy = s.busy := rfl
@[simp] theorem writeKey_done (k : Fin 4) (v : Word) (s : State) : (writeKey k v s).done = s.done := rfl
@[simp] theorem writeKey_ovr (k : Fin 4) (v : Word) (s : State) : (writeKey k v s).ovr = s.ovr := rfl
@[simp] theorem writeKey_err (k : Fin 4) (v : Word) (s : State) : (writeKey k v s).err = s.err := rfl
@[simp] theorem writeKey_cmdl (k : Fin 4) (v : Word) (s : State) : (writeKey k v s).cmdl = s.cmdl := rfl
@[simp] theorem writeKey_inputs (k : Fin 4) (v : Word) (s : State) : (writeKey k v s).inputs = s.inputs := rfl
@[simp] theorem writeKey_responses (k : Fin 4) (v : Word) (s : State) : (writeKey k v s).responses = s.responses := rfl
@[simp] theorem writeKey_draws (k : Fin 4) (v : Word) (s : State) : (writeKey k v s).draws = s.draws := rfl

/-! `writeData` -/

@[simp] theorem writeData_key (k : Fin 4) (v : Word) (s : State) : (writeData k v s).key = s.key := rfl
@[simp] theorem writeData_data (k : Fin 4) (v : Word) (s : State) : (writeData k v s).data = setWord s.data k v := rfl
@[simp] theorem writeData_frk (k : Fin 4) (v : Word) (s : State) : (writeData k v s).frk = s.frk := rfl
@[simp] theorem writeData_srk (k : Fin 4) (v : Word) (s : State) : (writeData k v s).srk = s.srk := rfl
@[simp] theorem writeData_fkv (k : Fin 4) (v : Word) (s : State) : (writeData k v s).fkv = s.fkv := rfl
@[simp] theorem writeData_skv (k : Fin 4) (v : Word) (s : State) : (writeData k v s).skv = s.skv := rfl
@[simp] theorem writeData_busy (k : Fin 4) (v : Word) (s : State) : (writeData k v s).busy = s.busy := rfl
@[simp] theorem writeData_done (k : Fin 4) (v : Word) (s : State) : (writeData k v s).done = s.done := rfl
@[simp] theorem writeData_ovr (k : Fin 4) (v : Word) (s : State) : (writeData k v s).ovr = s.ovr := rfl
@[simp] theorem writeData_err (k : Fin 4) (v : Word) (s : State) : (writeData k v s).err = s.err := rfl
@[simp] theorem writeData_cmdl (k : Fin 4) (v : Word) (s : State) : (writeData k v s).cmdl = s.cmdl := rfl
@[simp] theorem writeData_inputs (k : Fin 4) (v : Word) (s : State) : (writeData k v s).inputs = s.inputs := rfl
@[simp] theorem writeData_responses (k : Fin 4) (v : Word) (s : State) : (writeData k v s).responses = s.responses := rfl
@[simp] theorem writeData_draws (k : Fin 4) (v : Word) (s : State) : (writeData k v s).draws = s.draws := rfl

/-! `respond` -/

@[simp] theorem respond_key (p : Response × State) : (respond p).key = p.2.key := rfl
@[simp] theorem respond_data (p : Response × State) : (respond p).data = p.2.data := rfl
@[simp] theorem respond_frk (p : Response × State) : (respond p).frk = p.2.frk := rfl
@[simp] theorem respond_srk (p : Response × State) : (respond p).srk = p.2.srk := rfl
@[simp] theorem respond_fkv (p : Response × State) : (respond p).fkv = p.2.fkv := rfl
@[simp] theorem respond_skv (p : Response × State) : (respond p).skv = p.2.skv := rfl
@[simp] theorem respond_busy (p : Response × State) : (respond p).busy = p.2.busy := rfl
@[simp] theorem respond_done (p : Response × State) : (respond p).done = p.2.done := rfl
@[simp] theorem respond_ovr (p : Response × State) : (respond p).ovr = p.2.ovr := rfl
@[simp] theorem respond_err (p : Response × State) : (respond p).err = p.2.err := rfl
@[simp] theorem respond_cmdl (p : Response × State) : (respond p).cmdl = p.2.cmdl := rfl
@[simp] theorem respond_inputs (p : Response × State) : (respond p).inputs = p.2.inputs := rfl
@[simp] theorem respond_responses (p : Response × State) : (respond p).responses = p.1 :: p.2.responses := rfl
@[simp] theorem respond_draws (p : Response × State) : (respond p).draws = p.2.draws := rfl

/-! `applyReset` -/

@[simp] theorem applyReset_key (s : State) : (applyReset s).key = State.reset.key := rfl
@[simp] theorem applyReset_data (s : State) : (applyReset s).data = State.reset.data := rfl
@[simp] theorem applyReset_frk (s : State) : (applyReset s).frk = State.reset.frk := rfl
@[simp] theorem applyReset_srk (s : State) : (applyReset s).srk = State.reset.srk := rfl
@[simp] theorem applyReset_fkv (s : State) : (applyReset s).fkv = State.reset.fkv := rfl
@[simp] theorem applyReset_skv (s : State) : (applyReset s).skv = State.reset.skv := rfl
@[simp] theorem applyReset_busy (s : State) : (applyReset s).busy = State.reset.busy := rfl
@[simp] theorem applyReset_done (s : State) : (applyReset s).done = State.reset.done := rfl
@[simp] theorem applyReset_ovr (s : State) : (applyReset s).ovr = State.reset.ovr := rfl
@[simp] theorem applyReset_err (s : State) : (applyReset s).err = State.reset.err := rfl
@[simp] theorem applyReset_cmdl (s : State) : (applyReset s).cmdl = State.reset.cmdl := rfl
@[simp] theorem applyReset_inputs (s : State) : (applyReset s).inputs = s.inputs := rfl
@[simp] theorem applyReset_responses (s : State) : (applyReset s).responses = s.responses := rfl
@[simp] theorem applyReset_draws (s : State) : (applyReset s).draws = s.draws := rfl

end Sys2Proof.Machine
end

