-- ==== Sys2Proof/Laws/Ops.lean ====
section
/-! SUPPORT. For each shared operation, what it can answer, said once; and what the operand views show where entries hold
values. -/

namespace Sys2Proof.Machine

/-! ## The shapes of a completion -/

theorem completes_cases {effect : State → State} {s t : State} (h : completes effect s = .next t) :
    t = finish .ok (effect s) := by
  injection h with h
  exact h.symm

theorem fails_cases {code : ErrCode} {s t : State} (h : fails code s = .next t) : t = finish code s := by
  injection h with h
  exact h.symm

/-- A Feistel command that needs the schedule answers one of these two, and nothing else. -/
theorem withFeistelSchedule_cases {effect : State → State} {s t : State}
    (h : withFeistelSchedule effect s = .next t) :
    (s.fkv = true ∧ t = finish .ok (effect s)) ∨ (s.fkv = false ∧ t = finish .noSchedule s) := by
  cases hv : s.fkv <;> simp only [withFeistelSchedule, hv] at h
  · exact .inr ⟨rfl, fails_cases (by simpa using h)⟩
  · exact .inl ⟨rfl, completes_cases (by simpa using h)⟩

/-- An SPN command that needs the schedule answers one of these two, and nothing else. -/
theorem withSpnSchedule_cases {effect : State → State} {s t : State} (h : withSpnSchedule effect s = .next t) :
    (s.skv = true ∧ t = finish .ok (effect s)) ∨ (s.skv = false ∧ t = finish .noSchedule s) := by
  cases hv : s.skv <;> simp only [withSpnSchedule, hv] at h
  · exact .inr ⟨rfl, fails_cases (by simpa using h)⟩
  · exact .inl ⟨rfl, completes_cases (by simpa using h)⟩

@[simp] theorem withFeistelSchedule_valid {effect : State → State} {s : State} (h : s.fkv = true) :
    withFeistelSchedule effect s = .next (finish .ok (effect s)) := by simp [withFeistelSchedule, h, completes]

@[simp] theorem withFeistelSchedule_invalid {effect : State → State} {s : State} (h : s.fkv = false) :
    withFeistelSchedule effect s = .next (finish .noSchedule s) := by simp [withFeistelSchedule, h, fails]

@[simp] theorem withSpnSchedule_valid {effect : State → State} {s : State} (h : s.skv = true) :
    withSpnSchedule effect s = .next (finish .ok (effect s)) := by simp [withSpnSchedule, h, completes]

@[simp] theorem withSpnSchedule_invalid {effect : State → State} {s : State} (h : s.skv = false) :
    withSpnSchedule effect s = .next (finish .noSchedule s) := by simp [withSpnSchedule, h, fails]

/-! ## Operand views -/

/-- A filled entry shows its value. -/
theorem subkey_of_some {s : State} {i : Fin 16} {k : Subkey} (h : s.frk[i] = some k) : s.subkey i = k := by
  simp [State.subkey, h]

theorem expandedWord_of_some {s : State} {j : Fin 44} {w : Word} (h : s.srk[j] = some w) : s.expandedWord j = w := by
  simp [State.expandedWord, h]

/-- A filled file shows its values, whatever the free values are. -/
theorem subkeys_of_some {s : State} {ks : Vector Subkey 16} (h : ∀ i : Fin 16, s.frk[i] = some ks[i]) :
    s.subkeys = ks := by
  apply Vector.ext
  intro i hi
  simpa [State.subkeys] using subkey_of_some (h ⟨i, hi⟩)

theorem expandedKey_of_some {s : State} {ws : Vector Word 44} (h : ∀ j : Fin 44, s.srk[j] = some ws[j]) :
    s.expandedKey = ws := by
  apply Vector.ext
  intro i hi
  simpa [State.expandedKey] using expandedWord_of_some (h ⟨i, hi⟩)

theorem full_iff {α : Type} {n : Nat} (file : Vector (Option α) n) :
    full file = true ↔ ∀ i : Fin n, file[i].isSome = true := by
  simp only [full, List.all_eq_true]
  constructor
  · intro h i
    exact h _ (by simp)
  · intro h x hx
    obtain ⟨i, hi, rfl⟩ := List.mem_iff_getElem.mp hx
    have hi' : i < n := by simpa using hi
    simpa using h ⟨i, hi'⟩

/-- Drawing nothing changes nothing. -/
@[simp] theorem drew_false (s : State) : s.drew false = s := rfl

/-! ## The host port -/

/-- A transaction of 4 bytes at a mapped register does the register's action. -/
theorem access_mapped {off : Offset} {r : PortReg} (h : regAt off = some r)
    (act : PortReg → State → Response × State) (s : State) : access off 4 act s = act r s := by simp [access, h]

/-- Any other transaction is answered `BusError` and changes nothing (R58). -/
theorem access_unmapped {off : Offset} {size : Nat} (h : size ≠ 4 ∨ regAt off = none)
    (act : PortReg → State → Response × State) (s : State) : access off size act s = (.busError, s) := by
  unfold access
  rcases h with h | h
  · simp [h]
  · simp [h]

/-- A transaction either is refused by the access check or acts on one mapped register. -/
theorem access_cases (off : Offset) (size : Nat) (act : PortReg → State → Response × State) (s : State) :
    access off size act s = (.busError, s) ∨ ∃ r, size = 4 ∧ regAt off = some r ∧ access off size act s = act r s := by
  unfold access
  split
  · cases h : regAt off with
    | none => exact .inl rfl
    | some r => exact .inr ⟨r, ‹_›, rfl, rfl⟩
  · exact .inl rfl

theorem windowRead_state (entry : Option Word) (s : State) :
    (windowRead entry s).2 = s ∨ (windowRead entry s).2 = { s with draws := s.draws + 1 } := by
  unfold windowRead
  split
  · exact .inr rfl
  · cases entry <;> [exact .inr rfl; exact .inl rfl]

/-- All a read can do to the state: count a free value (R59). -/
theorem readReg_state (r : PortReg) (s : State) :
    (readReg r s).2 = s ∨ (readReg r s).2 = { s with draws := s.draws + 1 } := by
  cases r with
  | cmd => exact .inl rfl
  | status => exact .inl rfl
  | key k => exact .inl rfl
  | data k => cases hb : s.busy <;> simp [readReg, hb, drawRead]
  | frkh i => exact windowRead_state _ s
  | frkl i => exact windowRead_state _ s
  | srkw j => exact windowRead_state _ s

theorem memRead_state (off : Offset) (size : Nat) (s : State) :
    (memRead off size s).2 = s ∨ (memRead off size s).2 = { s with draws := s.draws + 1 } := by
  rcases access_cases off size readReg s with h | ⟨r, -, -, h⟩
  · exact .inl (by simp [memRead, h])
  · simpa [memRead, h] using readReg_state r s

/-- All a write can do to the state (R60 to R65). -/
theorem memWrite_state (off : Offset) (size : Nat) (v : Word) (s : State) :
    (memWrite off size v s).2 = s ∨ (memWrite off size v s).2 = writeStatus v s ∨
    (s.busy = true ∧ (memWrite off size v s).2 = overrun s) ∨
    (s.busy = false ∧ ((memWrite off size v s).2 = accept v s ∨
      (∃ k, (memWrite off size v s).2 = writeKey k v s) ∨ ∃ k, (memWrite off size v s).2 = writeData k v s)) := by
  rcases access_cases off size (fun r => writeReg r v) s with h | ⟨r, -, -, h⟩
  · exact .inl (by simp [memWrite, h])
  · rw [memWrite, h]
    cases r with
    | status => exact .inr (.inl rfl)
    | frkh i => exact .inl rfl
    | frkl i => exact .inl rfl
    | srkw j => exact .inl rfl
    | cmd => cases hb : s.busy <;> simp [writeReg, unlessBusy, hb]
    | key k =>
      cases hb : s.busy
      · exact .inr (.inr (.inr ⟨rfl, .inr (.inl ⟨k, by simp [writeReg, unlessBusy, hb]⟩)⟩))
      · simp [writeReg, unlessBusy, hb]
    | data k =>
      cases hb : s.busy
      · exact .inr (.inr (.inr ⟨rfl, .inr (.inr ⟨k, by simp [writeReg, unlessBusy, hb]⟩)⟩))
      · simp [writeReg, unlessBusy, hb]

/-- The registers' offsets read back the registers (R52, R90). -/
theorem regAt_offset (r : PortReg) : regAt r.offset = some r := by
  cases r with
  | cmd => rfl
  | status => rfl
  | key k => revert k; decide
  | data k => revert k; decide
  | frkh i => revert i; decide
  | frkl i => revert i; decide
  | srkw j => revert j; decide

end Sys2Proof.Machine
end

