-- ==== Sys2Proof/Laws/PerInstr.lean ====
section
/-! SUPPORT. Statements made for each command: its encoding selects the row of the opcode table that names it (R82). -/

namespace Sys2Proof.Laws.EncodesOwnRow

/-- The command word of i matches the row of its own operation, and the row's fixed bits are exactly the pattern (R82). -/
def Statement (i : Instr) : Prop :=
  i.wellFormed = true ∧ ∃ r ∈ opcodeTable, r.op = i.opcode ∧ encode i &&& r.mask = r.pattern

theorem nop : Statement .nop := by unfold Statement; decide

theorem fKs : Statement .fKs := by unfold Statement; decide

theorem fEnc : Statement .fEnc := by unfold Statement; decide

theorem fDec : Statement .fDec := by unfold Statement; decide

theorem fIp : Statement .fIp := by unfold Statement; decide

theorem fFp : Statement .fFp := by unfold Statement; decide

theorem fRnd (rnd : BitVec 4) : Statement (.fRnd rnd) := by
  refine ⟨by revert rnd; decide, ⟨.fRnd, 0x00000015, 0xFFFFF0FF⟩, by decide, rfl, ?_⟩
  revert rnd
  decide

theorem fSwap : Statement .fSwap := by unfold Statement; decide

theorem sKx : Statement .sKx := by unfold Statement; decide

theorem sEnc : Statement .sEnc := by unfold Statement; decide

theorem sDec : Statement .sDec := by unfold Statement; decide

theorem sSub : Statement .sSub := by unfold Statement; decide

theorem sIsub : Statement .sIsub := by unfold Statement; decide

theorem sShr : Statement .sShr := by unfold Statement; decide

theorem sIshr : Statement .sIshr := by unfold Statement; decide

theorem sMix : Statement .sMix := by unfold Statement; decide

theorem sImix : Statement .sImix := by unfold Statement; decide

theorem sArk (rnd : BitVec 4) : Statement (.sArk rnd) := by
  refine ⟨by revert rnd; decide, ⟨.sArk, 0x00000029, 0xFFFFF0FF⟩, by decide, rfl, ?_⟩
  revert rnd
  decide

end Sys2Proof.Laws.EncodesOwnRow
end

