-- ==== Sys2Proof/Laws/Step.lean ====
section
/-! SUPPORT. What a step is, by the head of the inputs: a proof about `step` cites these and unfolds no turn. -/

namespace Sys2Proof.Machine

/-- With no input waiting the core has the turn. -/
theorem step_idle {s : State} (h : s.inputs = []) : step s = coreTurn s := by simp [step, takeTurn, h]

/-- With an input waiting the step is that input, taken off the list. -/
theorem step_input {s : State} {e : Event} {rest : List Event} (h : s.inputs = e :: rest) :
    step s = applyEvent e { s with inputs := rest } := by simp [step, takeTurn, h]

@[simp] theorem step_cons (s : State) (e : Event) (rest : List Event) :
    step { s with inputs := e :: rest } = applyEvent e { s with inputs := rest } := rfl

@[simp] theorem applyEvent_read (off : Offset) (size : Nat) (s : State) :
    applyEvent (.read off size) s = .next (respond (memRead off size s)) := rfl

@[simp] theorem applyEvent_write (off : Offset) (size : Nat) (v : Word) (s : State) :
    applyEvent (.write off size v) s = .next (respond (memWrite off size v s)) := rfl

@[simp] theorem applyEvent_core (s : State) : applyEvent .core s = coreTurn s := rfl

@[simp] theorem applyEvent_reset (s : State) : applyEvent .reset s = .next (applyReset s) := rfl

/-- The core's turn on an idle block waits. -/
theorem coreTurn_idle {s : State} (h : s.busy = false) : coreTurn s = .next s := by simp [coreTurn, h]

/-- The core's turn on a busy block completes the command of CMDL. -/
theorem coreTurn_busy {s : State} (h : s.busy = true) : coreTurn s = completeCommand s := by simp [coreTurn, h]

theorem completeCommand_legal {s : State} {i : Instr} (h : decode s.cmdl = .ok i) : completeCommand s = exec i s := by
  simp [completeCommand, h]

theorem completeCommand_illegal {s : State} {e : Rejection} (h : decode s.cmdl = .error e) :
    completeCommand s = .next (finish .illegalCmd s) := by simp [completeCommand, h, fails]

/-! ## What a step can do -/

/-- All a command can do: it completes with a code, and its effect changes the count of free values only, and DATA where it
is a command that writes DATA, or it is F_KS or S_KX. -/
theorem exec_cases {i : Instr} {s t : State} (h : exec i s = .next t) : ∃ (c : ErrCode) (u : State), t = finish c u ∧
    ((∃ D d, (D = s.data ∨ writesData i = true) ∧ u = { s with data := D, draws := d }) ∨
      (i = .fKs ∧ u = { s with frk := (keySchedule feistelTables s.fkey).map some, fkv := true }) ∨
      (i = .sKx ∧ u = { s with srk := (keyExpansion spnTables s.key).map some, skv := true })) := by
  have feistel : ∀ (effect : State → State) (D : Block128) (d : Nat), effect s = { s with data := D, draws := d } →
      withFeistelSchedule effect s = .next t → ∃ (c : ErrCode) (u : State), t = finish c u ∧
        ∃ D d, u = { s with data := D, draws := d } := by
    intro effect D d he h
    rcases withFeistelSchedule_cases h with ⟨-, rfl⟩ | ⟨-, rfl⟩
    · exact ⟨_, _, rfl, D, d, he⟩
    · exact ⟨_, _, rfl, s.data, s.draws, rfl⟩
  have spn : ∀ (effect : State → State) (D : Block128) (d : Nat), effect s = { s with data := D, draws := d } →
      withSpnSchedule effect s = .next t → ∃ (c : ErrCode) (u : State), t = finish c u ∧
        ∃ D d, u = { s with data := D, draws := d } := by
    intro effect D d he h
    rcases withSpnSchedule_cases h with ⟨-, rfl⟩ | ⟨-, rfl⟩
    · exact ⟨_, _, rfl, D, d, he⟩
    · exact ⟨_, _, rfl, s.data, s.draws, rfl⟩
  have plain : ∀ (D : Block128) (d : Nat), (.next (finish .ok { s with data := D, draws := d }) : Result) = .next t →
      ∃ (c : ErrCode) (u : State), t = finish c u ∧ ∃ D d, u = { s with data := D, draws := d } := by
    intro D d h
    injection h with h
    exact ⟨_, _, h.symm, D, d, rfl⟩
  have widen {w : Bool} {P : State → Prop} (hw : w = true) :
      (∃ (c : ErrCode) (u : State), t = finish c u ∧ ∃ D d, u = { s with data := D, draws := d }) →
      ∃ (c : ErrCode) (u : State), t = finish c u ∧
        ((∃ D d, (D = s.data ∨ w = true) ∧ u = { s with data := D, draws := d }) ∨ P u) :=
    fun ⟨c, u, e, D, d, h⟩ => ⟨c, u, e, .inl ⟨D, d, .inr hw, h⟩⟩
  cases i with
  | nop =>
    simp only [exec, execNop] at h
    exact ⟨_, _, completes_cases h, .inl ⟨s.data, s.draws, .inl rfl, rfl⟩⟩
  | fKs =>
    simp only [exec, execFKs] at h
    exact ⟨_, _, completes_cases h, .inr (.inl ⟨rfl, rfl⟩)⟩
  | sKx =>
    simp only [exec, execSKx] at h
    exact ⟨_, _, completes_cases h, .inr (.inr ⟨rfl, rfl⟩)⟩
  | fEnc => exact widen rfl (feistel _ _ _ rfl h)
  | fDec => exact widen rfl (feistel _ _ _ rfl h)
  | fRnd rnd => exact widen rfl (feistel _ _ _ rfl h)
  | sEnc => exact widen rfl (spn _ _ _ rfl h)
  | sDec => exact widen rfl (spn _ _ _ rfl h)
  | sArk rnd =>
    simp only [exec, execSArk] at h
    split at h
    · exact widen rfl ⟨_, _, fails_cases h, s.data, s.draws, rfl⟩
    · exact widen rfl (spn _ _ _ rfl h)
  | fIp => exact widen rfl (plain _ _ h)
  | fFp => exact widen rfl (plain _ _ h)
  | fSwap => exact widen rfl (plain _ _ h)
  | sSub => exact widen rfl (plain _ _ h)
  | sIsub => exact widen rfl (plain _ _ h)
  | sShr => exact widen rfl (plain _ _ h)
  | sIshr => exact widen rfl (plain _ _ h)
  | sMix => exact widen rfl (plain _ _ h)
  | sImix => exact widen rfl (plain _ _ h)

/-- All a step can do: the core waits, completes a legal command or completes an illegal word; or the host reads, the host
writes, or the block is reset. -/
theorem step_cases {s t : State} (h : step s = .next t) :
    (CoreNext s ∧ s.busy = false ∧ t = { s with inputs := s.inputs.tail }) ∨
    (CoreNext s ∧ s.busy = true ∧ ∃ i, decode s.cmdl = .ok i ∧ exec i { s with inputs := s.inputs.tail } = .next t) ∨
    (CoreNext s ∧ s.busy = true ∧ (∃ e, decode s.cmdl = .error e) ∧
      t = finish .illegalCmd { s with inputs := s.inputs.tail }) ∨
    (∃ off size rest, s.inputs = .read off size :: rest ∧ t = respond (memRead off size { s with inputs := rest })) ∨
    (∃ off size v rest, s.inputs = .write off size v :: rest ∧
      t = respond (memWrite off size v { s with inputs := rest })) ∨
    (∃ rest, s.inputs = .reset :: rest ∧ t = applyReset { s with inputs := rest }) := by
  have core : CoreNext s → coreTurn { s with inputs := s.inputs.tail } = .next t →
      (CoreNext s ∧ s.busy = false ∧ t = { s with inputs := s.inputs.tail }) ∨
      (CoreNext s ∧ s.busy = true ∧ ∃ i, decode s.cmdl = .ok i ∧ exec i { s with inputs := s.inputs.tail } = .next t) ∨
      (CoreNext s ∧ s.busy = true ∧ (∃ e, decode s.cmdl = .error e) ∧
        t = finish .illegalCmd { s with inputs := s.inputs.tail }) := by
    intro hc ht
    rcases Bool.eq_false_or_eq_true s.busy with hb | hb
    rotate_left
    · rw [coreTurn_idle (by exact hb)] at ht
      injection ht with ht
      exact .inl ⟨hc, hb, ht.symm⟩
    · rw [coreTurn_busy (by exact hb)] at ht
      cases hd : decode s.cmdl with
      | ok i => exact .inr (.inl ⟨hc, hb, i, rfl, by rwa [completeCommand_legal (by exact hd)] at ht⟩)
      | error e =>
        rw [completeCommand_illegal (by exact hd)] at ht
        injection ht with ht
        exact .inr (.inr ⟨hc, hb, ⟨e, rfl⟩, ht.symm⟩)
  cases hs : s.inputs with
  | nil =>
    rw [step_idle hs] at h
    have he : { s with inputs := s.inputs.tail } = s := by cases s; simp_all
    rcases core (.inl hs) (by rwa [he]) with h | h | h
    · exact .inl (by simpa [hs] using h)
    · exact .inr (.inl (by simpa [hs] using h))
    · exact .inr (.inr (.inl (by simpa [hs] using h)))
  | cons e rest =>
    rw [step_input hs] at h
    cases e with
    | core =>
      rcases core (.inr ⟨rest, hs⟩) (by simpa [hs] using h) with h | h | h
      · exact .inl (by simpa [hs] using h)
      · exact .inr (.inl (by simpa [hs] using h))
      · exact .inr (.inr (.inl (by simpa [hs] using h)))
    | read off size =>
      injection h with h
      exact .inr (.inr (.inr (.inl ⟨off, size, rest, rfl, h.symm⟩)))
    | write off size v =>
      injection h with h
      exact .inr (.inr (.inr (.inr (.inl ⟨off, size, v, rest, rfl, h.symm⟩))))
    | reset =>
      injection h with h
      exact .inr (.inr (.inr (.inr (.inr ⟨rest, rfl, h.symm⟩))))

end Sys2Proof.Machine
end

