-- ==== Sys2Proof/Machine/HostText.lean ====
section
/-! DEFINITION. The text of commands and host programs (30_encoding.md section 5: R89 to R92), read into statements. A text
is a list of characters, a token a list of characters, a line a list of tokens. -/

namespace Sys2Proof.Machine

/-- A token of a source line. -/
abbrev Token := List Char

/-- The braces of `repeat`. -/
def openBrace : Char := Char.ofNat 0x7B
def closeBrace : Char := Char.ofNat 0x7D

/-! ## Lines and tokens -/

/-- The text without comments, with a comma, a colon and a brace each a token of its own, and a line's end after an opening
brace and around a closing one (R91, R92). The flag: inside a comment. -/
def spread : Bool → List Char → List Char
  | _, [] => []
  | inComment, c :: cs =>
    if c = '\n' then c :: spread false cs
    else if inComment then spread true cs
    else if c = ';' then spread true cs
    else if c = ',' ∨ c = ':' then ' ' :: c :: ' ' :: spread false cs
    else if c = openBrace then ' ' :: c :: '\n' :: spread false cs
    else if c = closeBrace then '\n' :: c :: '\n' :: spread false cs
    else c :: spread false cs

/-- A list cut at its separators. -/
def fields (separates : Char → Bool) : List Char → List (List Char)
  | [] => [[]]
  | c :: cs =>
    if separates c then [] :: fields separates cs
    else match fields separates cs with
      | [] => [[c]]
      | f :: fs => (c :: f) :: fs

/-- The tokens of a line. -/
def tokens (line : List Char) : List Token :=
  (fields (fun c => c = ' ' ∨ c = '\t' ∨ c = '\r') line).filter fun t => !t.isEmpty

/-- The lines of a text that hold a token. -/
def sourceLines (text : List Char) : List (List Token) :=
  ((fields (· = '\n') (spread false text)).map tokens).filter fun l => !l.isEmpty

/-! ## Literals and names -/

/-- The number of digits in a base; none where a character is no digit of it, or there is none. -/
def digitsValue (base : Nat) (ds : Token) : Option Nat :=
  if ds.isEmpty then none
  else ds.foldl (fun acc c => acc.bind fun n => (hexDigit c).bind fun d =>
    if d < base then some (base * n + d) else none) (some 0)

/-- A decimal or `0x` hexadecimal literal (R89). -/
def literal : Token → Option Nat
  | '0' :: 'x' :: ds => digitsValue 16 ds
  | ds => digitsValue 10 ds

/-- imm32 and mask (R91). The spec gives no written form for them (its `0x` is of a raw offset, its decimal or `0x` of rnd,
R89): that both forms are read here is the model's choice (DESIGN CHOICE, log entry 18). -/
def wordLiteral (t : Token) : Option Word :=
  (literal t).bind fun n => if n < 2 ^ 32 then some (BitVec.ofNat 32 n) else none

/-- A bare hex string of n digits: h16, h32 (R92). -/
def hexString (n : Nat) (t : Token) : Option Nat := if t.length = n then digitsValue 16 t else none

/-- The mnemonics (R82). -/
def mnemonics : List (Token × Opcode) :=
  [(['N', 'O', 'P'], .nop), (['F', '_', 'K', 'S'], .fKs), (['F', '_', 'E', 'N', 'C'], .fEnc),
   (['F', '_', 'D', 'E', 'C'], .fDec), (['F', '_', 'I', 'P'], .fIp), (['F', '_', 'F', 'P'], .fFp),
   (['F', '_', 'R', 'N', 'D'], .fRnd), (['F', '_', 'S', 'W', 'A', 'P'], .fSwap), (['S', '_', 'K', 'X'], .sKx),
   (['S', '_', 'E', 'N', 'C'], .sEnc), (['S', '_', 'D', 'E', 'C'], .sDec), (['S', '_', 'S', 'U', 'B'], .sSub)] ++
  [(['S', '_', 'I', 'S', 'U', 'B'], .sIsub), (['S', '_', 'S', 'H', 'R'], .sShr),
   (['S', '_', 'I', 'S', 'H', 'R'], .sIshr), (['S', '_', 'M', 'I', 'X'], .sMix),
   (['S', '_', 'I', 'M', 'I', 'X'], .sImix), (['S', '_', 'A', 'R', 'K'], .sArk)]

/-- `MNEMONIC` or `MNEMONIC rnd`, as a source command (R89). -/
def sourceCommand : List Token → Option SourceCommand
  | [m] => (mnemonics.lookup m).map fun op => ⟨op, none⟩
  | [m, r] => (mnemonics.lookup m).bind fun op => (literal r).map fun n => ⟨op, some n⟩
  | _ => none

/-- The command word of a command's text; none where the assembler refuses it (R89). -/
def commandWord (ts : List Token) : Option Word := (sourceCommand ts).bind assemble

/-- The name of a register (R90). -/
def PortReg.name : PortReg → Token
  | .cmd => ['C', 'M', 'D']
  | .status => ['S', 'T', 'A', 'T', 'U', 'S']
  | .key k => ['K', 'E', 'Y'] ++ Nat.toDigits 10 k
  | .data k => ['D', 'A', 'T', 'A'] ++ Nat.toDigits 10 k
  | .frkh i => ['F', 'R', 'K', 'H'] ++ Nat.toDigits 10 i
  | .frkl i => ['F', 'R', 'K', 'L'] ++ Nat.toDigits 10 i
  | .srkw j => ['S', 'R', 'K', 'W'] ++ Nat.toDigits 10 j

/-- All the registers of the window (R52). -/
def allRegs : List PortReg :=
  [.cmd, .status] ++ (List.finRange 4).map .key ++ (List.finRange 4).map .data ++ (List.finRange 16).map .frkh ++
    (List.finRange 16).map .frkl ++ (List.finRange 44).map .srkw

/-- REG: a register's name, or a raw byte offset written as a `0x` literal (R90, R91). -/
def hostReg (t : Token) : Option HostReg :=
  match t with
  | '0' :: 'x' :: ds => (digitsValue 16 ds).bind fun n =>
    if n < 0x400 then some (.raw (BitVec.ofNat 10 n)) else none
  | t => (allRegs.find? fun r => r.name == t).map .reg

/-! ## Statements -/

/-- One statement, with the fresh label its `poll` takes; none where the text is no statement (R91, R92). -/
def statement (fresh : HostLabel) (line : List Token) : Option (List HostStmt) :=
  match line with
  | [] => some []
  | op :: args =>
    if op = ['w', 'r'] then match args with
      | [r, [','], v] => (hostReg r).bind fun r => (wordLiteral v).map fun v => [.wr r v]
      | _ => none
    else if op = ['r', 'd'] then match args with
      | [r] => (hostReg r).map fun r => [.rd r]
      | _ => none
    else if op = ['b', 'n', 'z'] then match args with
      | [r, [','], m, [','], l] => (hostReg r).bind fun r => (wordLiteral m).map fun m => [.bnz r m (.named l)]
      | _ => none
    else if op = ['c', 'm', 'd'] then (commandWord args).map stmtCmdWord
    else if op = ['r', 'u', 'n'] then (commandWord args).map fun w => stmtCmdWord w ++ stmtPoll fresh
    else if op = ['p', 'o', 'l', 'l'] then (if args.isEmpty then some (stmtPoll fresh) else none)
    else if op = ['l', 'd', 'k', 'e', 'y', '6', '4'] then match args with
      | [h] => (hexString 16 h).map fun n => stmtLdkey64 (BitVec.ofNat 64 n)
      | _ => none
    else if op = ['l', 'd', 'k', 'e', 'y', '1', '2', '8'] then match args with
      | [h] => (hexString 32 h).map fun n => stmtLdkey128 (BitVec.ofNat 128 n)
      | _ => none
    else if op = ['l', 'd', 'b', 'l', 'k', '6', '4'] then match args with
      | [h] => (hexString 16 h).map fun n => stmtLdblk64 (BitVec.ofNat 64 n)
      | _ => none
    else if op = ['l', 'd', 'b', 'l', 'k', '1', '2', '8'] then match args with
      | [h] => (hexString 32 h).map fun n => stmtLdblk128 (BitVec.ofNat 128 n)
      | _ => none
    else if op = ['r', 'd', 'b', 'l', 'k', '6', '4'] then (if args.isEmpty then some stmtRdblk64 else none)
    else if op = ['r', 'd', 'b', 'l', 'k', '1', '2', '8'] then (if args.isEmpty then some stmtRdblk128 else none)
    else none

/-- One line: a statement, with the labels in front of it (R91). -/
def lineStatements (fresh : HostLabel) : List Token → Option (List HostStmt)
  | l :: [':'] :: rest => (lineStatements fresh rest).map fun st => .label (.named l) :: st
  | line => statement fresh line

/-! ## `repeat` (R92) -/

/-- `a..=b`. -/
def inclusiveRange (t : Token) : Option (Nat × Nat) :=
  match fields (· = '.') t with
  | [a, [], '=' :: b] => (literal a).bind fun a => (literal b).map fun b => (a, b)
  | _ => none

/-- Whether a token can name the variable of a `repeat`: it does not begin with a digit (log entry 13). -/
def isVariable : Token → Bool
  | [] => false
  | c :: _ => (c.isAlpha || c = '_')

/-- The head of a `repeat`: its variable and the values it takes, in order. -/
def repeatHead : List Token → Option (Token × List Nat)
  | kw :: r :: i :: rest =>
    if kw = ['r', 'e', 'p', 'e', 'a', 't'] ∧ isVariable r = true ∧ i = ['i', 'n'] ∧
        rest.getLast? = some [openBrace] then
      let range := rest.dropLast
      if range.getLast? = some ['d', 'o', 'w', 'n'] then
        (inclusiveRange range.dropLast.flatten).map fun (b, a) => (r, (List.range' a (b + 1 - a)).reverse)
      else (inclusiveRange range.flatten).map fun (a, b) => (r, List.range' a (b + 1 - a))
    else none
  | _ => none

/-- The labels in front of a line, each as a line of its own, and the line without them (R91). -/
def splitLabels : List Token → List (List Token) × List Token
  | l :: [':'] :: rest => ([l, [':']] :: (splitLabels rest).1, (splitLabels rest).2)
  | line => ([], line)

/-- The lines up to the closing brace of a body at the given depth, and those after it; none where it is missing. -/
def takeBody : Nat → List (List Token) → Option (List (List Token) × List (List Token))
  | _, [] => none
  | depth, l :: ls =>
    if l = [[closeBrace]] then
      match depth with
      | 0 => some ([], ls)
      | d + 1 => (takeBody d ls).map fun (body, rest) => (l :: body, rest)
    else (takeBody (if l.getLast? = some [openBrace] then depth + 1 else depth) ls).map
      fun (body, rest) => (l :: body, rest)

/-- The register names up to their number (R90). -/
def numberedRegs : List Token :=
  [['K', 'E', 'Y'], ['D', 'A', 'T', 'A'], ['F', 'R', 'K', 'H'], ['F', 'R', 'K', 'L'], ['S', 'R', 'K', 'W']]

/-- The variable r replaced by the text v in one word: the word is r, or a register's name with r as its number (log entry
13). -/
def replaceWord (r v word : Token) : Token :=
  if word = r then v
  else match numberedRegs.find? fun p => p ++ r == word with
    | some p => p ++ v
    | none => word

/-- The variable replaced in every word of a token, so in the bounds of an inner `repeat` too. A word is a run of letters,
digits and underscores; the first argument after v holds the word read so far, the last character first. -/
def replaceWords (r v : Token) : Token → Token → Token
  | word, [] => replaceWord r v word.reverse
  | word, c :: cs =>
    if c.isAlphanum || c = '_' then replaceWords r v (c :: word) cs
    else replaceWord r v word.reverse ++ c :: replaceWords r v [] cs

/-- The variable of a `repeat` replaced in its body by a value, as a decimal text (R92; log entry 13). -/
def substitute (r : Token) (v : Nat) (body : List (List Token)) : List (List Token) :=
  body.map fun l => l.map fun t => replaceWords r (Nat.toDigits 10 v) [] t

/-- The lines with every `repeat` unrolled; the labels in front of one stand before its first body. The fuel is the number
of lines, which bounds every body and every rest. -/
def unroll : Nat → List (List Token) → Option (List (List Token))
  | _, [] => some []
  | 0, _ :: _ => none
  | fuel + 1, l :: ls =>
    match repeatHead (splitLabels l).2 with
    | some (r, vs) =>
      (takeBody 0 ls).bind fun (body, rest) =>
        (vs.mapM fun v => unroll fuel (substitute r v body)).bind fun copies =>
          (unroll fuel rest).map fun after => (splitLabels l).1 ++ copies.flatten ++ after
    | none => (unroll fuel ls).map fun after => l :: after

/-- A host program's statements from its text; none where the text is no program (R91, R92). -/
def assembleProgram (text : List Char) : Option (List HostStmt) :=
  let lines := sourceLines text
  (unroll lines.length lines).bind fun lines =>
    (lines.zipIdx.mapM fun (l, n) => lineStatements (.fresh n) l).map List.flatten

end Sys2Proof.Machine
end

