-- ==== Sys2Proof/Tests/Slice0.lean ====
section
/-! SUPPORT. Tests of the model on the spec's own numbers (their source stands at each), the refusals of the well-formedness
check, and for every statement with hypotheses a witness that meets them. -/

namespace Sys2Proof.Tests

open Sys2Proof.Machine

/-! ## Small states -/

/-- A field of the next state; none where a command stopped. -/
def field {α : Type} (o : Host.Outcome State Fault Refusal) (f : State → α) : Option α :=
  match o with
  | .next t => some (f t)
  | .fault _ => none
  | .refused _ => none

/-- The textbook key 133457799BBCDFF1 with its schedule as 95_test_vectors.md §3.2 lists it, and a block in DATA0:1. -/
def feistelState (blk : Block64) : State :=
  { State.reset with
    key := 0x133457799BBCDFF10000000000000000
    data := blk ++ (0x313198A2E0370734 : BitVec 64)
    fkv := true
    frk := #v[some 0x1B02EFFC7072, some 0x79AED9DBC9E5, some 0x55FC8A42CF99, some 0x72ADD6DB351D,
      some 0x7CEC07EB53A8, some 0x63A53E507B2F, some 0xEC84B7F618BC, some 0xF78A3AC13BFB,
      some 0xE0DBEBEDE781, some 0xB1F347BA464F, some 0x215FD3DED386, some 0x7571F59467E9,
      some 0x97C5D1FABA41, some 0x5F43B7F2E73A, some 0xBF918D3D3F0A, some 0xCB3D8B0E17F5] }

/-- The expanded words of the FIPS key, from 95_test_vectors.md §4.3. -/
def fipsWords : Vector Word 44 :=
  #v[0x2B7E1516, 0x28AED2A6, 0xABF71588, 0x09CF4F3C, 0xA0FAFE17, 0x88542CB1, 0x23A33939, 0x2A6C7605,
     0xF2C295F2, 0x7A96B943, 0x5935807A, 0x7359F67F, 0x3D80477D, 0x4716FE3E, 0x1E237E44, 0x6D7A883B,
     0xEF44A541, 0xA8525B7F, 0xB671253B, 0xDB0BAD00, 0xD4D1C6F8, 0x7C839D87, 0xCAF2B8BC, 0x11F915BC, 0x6D88A37A, 0x110B3EFD, 0xDBF98641, 0xCA0093FD,
     0x4E54F70E, 0x5F5FC9F3, 0x84A64FB2, 0x4EA6DC4F, 0xEAD27321, 0xB58DBAD2, 0x312BF560, 0x7F8D292F,
     0xAC7766F3, 0x19FADC21, 0x28D12941, 0x575C006E, 0xD014F9A8, 0xC9EE2589, 0xE13F0CC8, 0xB6630CA6]

/-- The FIPS key with its expansion, and a block in DATA. -/
def spnState (blk : Block128) : State :=
  { State.reset with
    key := 0x2B7E151628AED2A6ABF7158809CF4F3C, data := blk, skv := true, srk := fipsWords.map some }

/-- A state in which the command word w runs, and the event e comes next. -/
def busyWith (w : Word) (es : List Event) (s : State) : State := { s with busy := true, cmdl := w, inputs := es }

/-! ## The well-formedness check refuses (R89) -/

theorem test_operand_on_plain_command_refused : (⟨.fKs, some 1⟩ : SourceCommand).wellFormed = false := by decide
theorem test_f_rnd_16_refused : (⟨.fRnd, some 16⟩ : SourceCommand).wellFormed = false := by decide
theorem test_s_ark_11_refused : (⟨.sArk, some 11⟩ : SourceCommand).wellFormed = false := by decide
theorem test_largest_operands_accepted :
    (⟨.fRnd, some 15⟩ : SourceCommand).wellFormed = true ∧ (⟨.sArk, some 10⟩ : SourceCommand).wellFormed = true := by
  decide

/-! ## Decoding, the words written out from rule R82 as RSV, RND, OP -/

theorem test_decode_control : decodeTableWord 32 0b00000000000000000000_0000_00000000 = some .nop := by decide

theorem test_decode_feistel :
    decodeTableWord 32 0b00000000000000000000_0000_00010000 = some .fKs ∧
    decodeTableWord 32 0b00000000000000000000_0000_00010001 = some .fEnc ∧
    decodeTableWord 32 0b00000000000000000000_0000_00010010 = some .fDec ∧
    decodeTableWord 32 0b00000000000000000000_0000_00010011 = some .fIp ∧
    decodeTableWord 32 0b00000000000000000000_0000_00010100 = some .fFp ∧
    decodeTableWord 32 0b00000000000000000000_0101_00010101 = some (.fRnd 5) ∧
    decodeTableWord 32 0b00000000000000000000_0000_00010110 = some .fSwap := by decide

theorem test_decode_spn :
    decodeTableWord 32 0b00000000000000000000_0000_00100000 = some .sKx ∧
    decodeTableWord 32 0b00000000000000000000_0000_00100001 = some .sEnc ∧
    decodeTableWord 32 0b00000000000000000000_0000_00100010 = some .sDec ∧
    decodeTableWord 32 0b00000000000000000000_0000_00100011 = some .sSub ∧
    decodeTableWord 32 0b00000000000000000000_0000_00100100 = some .sIsub ∧
    decodeTableWord 32 0b00000000000000000000_0000_00100101 = some .sShr ∧
    decodeTableWord 32 0b00000000000000000000_0000_00100110 = some .sIshr ∧
    decodeTableWord 32 0b00000000000000000000_0000_00100111 = some .sMix ∧
    decodeTableWord 32 0b00000000000000000000_0000_00101000 = some .sImix ∧
    decodeTableWord 32 0b00000000000000000000_1010_00101001 = some (.sArk 10) := by decide

/-- The illegal words of R88 and of vectors V6, V8, V9, each by its own name. -/
theorem test_decode_rejects_by_name :
    decode 0x00000110 = .error .unexpectedRound ∧ decode 0x00000100 = .error .unexpectedRound ∧
    decode 0x00001010 = .error .reservedBits ∧ decode 0x00001029 = .error .reservedBits ∧
    decode 0x0000002A = .error .reservedOp ∧ decode 0x000000FF = .error .reservedOp := by decide

/-! ## The tables keep their constraints -/

theorem test_feistel_tables_ok : feistelTablesOk feistelTables = true := by decide +kernel
theorem test_spn_tables_ok : spnTablesOk spnTables = true := by decide +kernel

/-! ## Commands, on the example of each rule -/

/-- R118: STATUS 0x12 becomes 0x02. -/
theorem test_nop_clears_err :
    field (exec .nop { State.reset with done := true, err := .illegalCmd, busy := false }) statusWord = some 0x02 := by
  decide

/-- R160. -/
theorem test_f_ks : field (exec .fKs { State.reset with key := 0x133457799BBCDFF10000000000000000 })
    (fun t => (t.frk[0], t.frk[15], statusWord t)) = some (some 0x1B02EFFC7072, some 0xCB3D8B0E17F5, 0x102) := by
  decide +kernel

/-- R161; DATA2 and DATA3 keep their values (F22). -/
theorem test_f_enc : field (exec .fEnc (feistelState 0x0123456789ABCDEF)) State.data =
    some 0x85E813540F0AB405313198A2E0370734 := by decide +kernel

/-- R162. -/
theorem test_f_dec : field (exec .fDec (feistelState 0x85E813540F0AB405)) State.fblk = some 0x0123456789ABCDEF := by
  decide +kernel

/-- V5: F_ENC after reset. -/
theorem test_f_enc_no_schedule :
    field (exec .fEnc { State.reset with data := 5 }) (fun t => (statusWord t, t.data)) = some (0x22, 5) := by decide

/-- R163. -/
theorem test_f_ip : field (exec .fIp (feistelState 0x0123456789ABCDEF)) State.fblk = some 0xCC00CCFFF0AAF0AA := by
  decide +kernel

/-- R164, and F14. -/
theorem test_f_fp : field (exec .fFp (feistelState 0x0000000000000001)) State.fblk = some 0x0200000000000000 := by
  decide +kernel

/-- R165. -/
theorem test_f_rnd_0 : field (exec (.fRnd 0) (feistelState 0xCC00CCFFF0AAF0AA)) State.fblk = some 0xF0AAF0AAEF4A6544 := by
  decide +kernel

/-- The last row of 95_test_vectors.md §3.3: another subkey index than 0. -/
theorem test_f_rnd_15 : field (exec (.fRnd 15) (feistelState 0xC28C960D43423234)) State.fblk =
    some 0x434232340A4CD995 := by decide +kernel

/-- R166. -/
theorem test_f_swap : field (exec .fSwap (feistelState 0x0123456789ABCDEF)) State.data =
    some 0x89ABCDEF01234567313198A2E0370734 := by decide +kernel

/-- R240 and 95_test_vectors.md §4.3: every word. -/
theorem test_s_kx : field (exec .sKx { State.reset with key := 0x2B7E151628AED2A6ABF7158809CF4F3C })
    (fun t => (t.srk, statusWord t)) = some (fipsWords.map some, 0x202) := by decide +kernel

/-- R241. -/
theorem test_s_enc : field (exec .sEnc (spnState 0x3243F6A8885A308D313198A2E0370734)) State.data =
    some 0x3925841D02DC09FBDC118597196A0B32 := by decide +kernel

/-- R242. -/
theorem test_s_dec : field (exec .sDec (spnState 0x3925841D02DC09FBDC118597196A0B32)) State.data =
    some 0x3243F6A8885A308D313198A2E0370734 := by decide +kernel

/-- R243. -/
theorem test_s_sub : field (exec .sSub (spnState 0x193DE3BEA0F4E22B9AC68D2AE9F84808)) State.data =
    some 0xD42711AEE0BF98F1B8B45DE51E415230 := by decide +kernel

/-- R244. -/
theorem test_s_isub : field (exec .sIsub (spnState 0xD42711AEE0BF98F1B8B45DE51E415230)) State.data =
    some 0x193DE3BEA0F4E22B9AC68D2AE9F84808 := by decide +kernel

/-- R245. -/
theorem test_s_shr : field (exec .sShr (spnState 0x000102030405060708090A0B0C0D0E0F)) State.data =
    some 0x00050A0F04090E03080D02070C01060B := by decide +kernel

/-- R246. -/
theorem test_s_ishr : field (exec .sIshr (spnState 0x000102030405060708090A0B0C0D0E0F)) State.data =
    some 0x000D0A0704010E0B0805020F0C090603 := by decide +kernel

/-- R247. -/
theorem test_s_mix : field (exec .sMix (spnState 0xD4BF5D30E0B452AEB84111F11E2798E5)) State.data =
    some 0x046681E5E0CB199A48F8D37A2806264C := by decide +kernel

/-- R248. -/
theorem test_s_imix : field (exec .sImix (spnState 0x046681E5E0CB199A48F8D37A2806264C)) State.data =
    some 0xD4BF5D30E0B452AEB84111F11E2798E5 := by decide +kernel

/-- R249; the round-10 key is the last row of 95_test_vectors.md §4.4. -/
theorem test_s_ark : field (exec (.sArk 0) (spnState 0x3243F6A8885A308D313198A2E0370734)) State.data =
      some 0x193DE3BEA0F4E22B9AC68D2AE9F84808 ∧
    field (exec (.sArk 10) (spnState 0xE9317DB5CB322C723D2E895FAF090794)) State.data =
      some 0x3925841D02DC09FBDC118597196A0B32 := by decide +kernel

/-- V7: BAD_ROUND wins over NO_SCHEDULE. -/
theorem test_s_ark_12 : field (exec (.sArk 12) State.reset) State.err = some .badRound := by decide

/-! ## The port and the step -/

/-- V4: the STATUS of a command that runs; V20: reset aborts it. -/
theorem test_accept_then_reset :
    field (step { State.reset with inputs := [.write 0x000 4 0x11] }) statusWord = some 0x01 ∧
    field (step (busyWith 0x11 [.reset] State.reset)) (fun t => (statusWord t, t.cmdl)) = some (0, 0) := by decide

/-- V14, V16: a discarded key write, and clearing OVR while busy. -/
theorem test_overrun : field (step (busyWith 0x10 [.write 0x010 4 7] State.reset)) (fun t => (statusWord t, t.key)) =
      some (0x05, 0) ∧
    field (step (busyWith 0x10 [.write 0x004 4 0x4] { State.reset with ovr := true })) statusWord = some 0x01 := by decide

/-- V18, V19: a write to KEY2 clears SKV only, one to KEY1 both. -/
theorem test_key_writes_clear_flags :
    field (step { State.reset with fkv := true, skv := true, inputs := [.write 0x018 4 9] })
      (fun t => (t.fkv, t.skv, t.key)) = some (true, false, 0x900000000) ∧
    field (step { State.reset with fkv := true, skv := true, inputs := [.write 0x014 4 0] })
      (fun t => (t.fkv, t.skv)) = some (false, false) := by decide

/-- V11, V12, V13. -/
theorem test_bus_errors :
    field (step { State.reset with inputs := [.read 0x2B0 4] }) State.responses = some [.busError] ∧
    field (step { State.reset with inputs := [.write 0x104 4 0] }) State.responses = some [.busError] ∧
    field (step { State.reset with inputs := [.read 0x010 2] }) State.responses = some [.busError] ∧
    field (step { State.reset with inputs := [.read 0x011 4] }) State.responses = some [.busError] := by decide

/-- P1: FRKH15 and FRKL15 after F_KS; 95_test_vectors.md §6 P2: SRKW43. -/
theorem test_read_back :
    field (step { feistelState 0 with inputs := [.read 0x178 4] }) State.responses = some [.data 0x0000CB3D] ∧
    field (step { feistelState 0 with inputs := [.read 0x17C 4] }) State.responses = some [.data 0x8B0E17F5] ∧
    field (step { spnState 0 with inputs := [.read 0x2AC 4] }) State.responses = some [.data 0xB6630CA6] := by
  decide +kernel

/-- R308: a write before the completion is discarded, after it accepted (P3, both interleavings). -/
theorem test_both_orders :
    field (stepMany 2 (busyWith 0x00 [.write 0x010 4 7, .core] State.reset)) (fun t => (t.key, statusWord t)) =
      some (0, 0x06) ∧
    field (stepMany 2 (busyWith 0x00 [.core, .write 0x010 4 7] State.reset)) (fun t => (wordOf t.key 0, statusWord t)) =
      some (7, 0x02) := by decide

/-! ## The host's side: H1 to H15, T7, P1 -/

theorem test_hex : hexToBytes "a1B2".toList = some [0xA1, 0xB2] ∧ bytesToHex [0x0A, 0xFF] = "0AFF".toList := by decide

theorem test_padding : pad [0x48, 0x45, 0x4C, 0x4C, 0x4F] 8 = [0x48, 0x45, 0x4C, 0x4C, 0x4F, 3, 3, 3] ∧
    unpad [0x41, 0x42, 0x43, 5, 5, 5, 5, 5] 8 = [0x41, 0x42, 0x43] ∧
    unpad [1, 2, 3, 4, 5, 6, 7, 0] 8 = [1, 2, 3, 4, 5, 6, 7, 0] ∧
    unpad [1, 2, 3, 4, 5, 6, 7, 8] 8 = [] ∧ unpad [1, 2, 3, 4, 5, 6, 7, 9] 8 = [1, 2, 3, 4, 5, 6, 7, 9] ∧
    unpad [] 8 = [] := by decide

/-- T7: "HELLO" under the textbook key. -/
theorem test_hello : ((driverEncrypt .feistel "HELLO".toList "133457799BBCDFF1".toList State.reset).toOption.map
    fun p => p.1) = some "EECAD253398C5ADC".toList := by decide +kernel

/-! ## Witnesses: every statement with hypotheses has a state and operands that meet them -/

/-- A state with both schedules held, one command in flight. -/
def heldBusy : State :=
  { State.reset with
    key := 0x2B7E151628AED2A6ABF7158809CF4F3C
    frk := (keySchedule feistelTables 0x2B7E151628AED2A6).map some
    srk := (keyExpansion spnTables 0x2B7E151628AED2A6ABF7158809CF4F3C).map some
    fkv := true
    skv := true
    busy := true
    cmdl := 0x11 }

theorem heldBusy_inv : Inv heldBusy where
  feistel := fun _ i => by
    have h : heldBusy.fkey = 0x2B7E151628AED2A6 := by decide
    rw [h]
    simp [heldBusy]
  spn := fun _ j => by simp [heldBusy]
  frk := .inr fun i => by simp [heldBusy]
  srk := .inr fun j => by simp [heldBusy]
  status := ⟨by decide, fun _ => rfl⟩

theorem witness_DecodeAndEncodeAgree :
    (Instr.fRnd 15).wellFormed = true ∧ decode 0x00000F15 = .ok (.fRnd 15) ∧ decode 0 = .ok .nop := by decide

theorem witness_AtMostOneRowSelected : ∃ (w : Word) (r : OpcodeRow), r ∈ opcodeTable ∧ w &&& r.mask = r.pattern :=
  ⟨0x00000F29, ⟨.sArk, 0x29, 0xFFFFF0FF⟩, by decide, by decide⟩

theorem witness_IllegalWordsExactly : ∃ s : State, s.busy = true ∧ ∃ e, decode s.cmdl = .error e :=
  ⟨busyWith 0x2A [] State.reset, rfl, .reservedOp, by decide⟩

theorem witness_AssemblerAcceptsAndRefuses :
    assemble ⟨.sArk, some 10⟩ = some 0x00000A29 ∧ assemble ⟨.fRnd, none⟩ = some 0x15 ∧
    assemble ⟨.sArk, some 11⟩ = none ∧ assemble ⟨.nop, some 0⟩ = none ∧ assemble ⟨.fRnd, some 16⟩ = none := by decide

theorem witness_StepRunsTheDecodedCommand :
    heldBusy.busy = true ∧ decode heldBusy.cmdl = .ok .fEnc ∧ heldBusy.inputs = [] := by decide

theorem witness_ResultCodeOfEveryWord :
    State.reset.busy = false ∧ heldBusy.busy = true ∧
    ¬ Legal (busyWith 0x110 [] State.reset).cmdl ∧
    Legal 0x00000B29 ∧ Legal 0x00000A29 ∧ Legal 0x00000021 ∧ Legal 0x00000011 ∧ Legal 0x00000F15 ∧
    State.reset.fkv = false ∧ State.reset.skv = false ∧ heldBusy.fkv = true ∧ heldBusy.skv = true := by
  unfold Legal
  decide

/-- Both values of BUSY occur, and both sides of k = 1 and 2. -/
theorem witness_KeyWrite_DataWrite_CmdRegister :
    State.reset.busy = false ∧ heldBusy.busy = true ∧ (1 : Fin 4).val ≤ 1 ∧ ¬ (2 : Fin 4).val ≤ 1 := by decide

theorem witness_StatusBits : ∀ e : ErrCode, ∃ s : State, s.err = e := fun e => ⟨{ State.reset with err := e }, rfl⟩

/-- The ends of every range of offsets. -/
theorem witness_ReadFunction_BusErrors :
    (∀ n ∈ [0x008, 0x00C, 0x030, 0x0FC, 0x180, 0x1FC, 0x2B0, 0x3FC],
      Unmapped n ∧ n % 4 = 0 ∧ (BitVec.ofNat 10 n).toNat = n) ∧
    (0x01C : Offset).toNat = 0x010 + 4 * (3 : Fin 4).val ∧ (0x020 : Offset).toNat = 0x020 + 4 * (0 : Fin 4).val ∧
    (0x02C : Offset).toNat = 0x020 + 4 * (3 : Fin 4).val ∧ (0x178 : Offset).toNat = 0x100 + 8 * (15 : Fin 16).val ∧
    (0x17C : Offset).toNat = 0x104 + 8 * (15 : Fin 16).val ∧ (0x2AC : Offset).toNat = 0x200 + 4 * (43 : Fin 44).val ∧
    State.reset.frk[15] = none ∧ State.reset.srk[43] = none ∧ State.reset.busy = false ∧
    (feistelState 0).frk[15] = some 0xCB3D8B0E17F5 ∧ (feistelState 0).busy = false ∧
    (spnState 0).srk[43] = some 0xB6630CA6 ∧ (spnState 0).busy = false := by
  unfold Unmapped
  decide +kernel

theorem witness_OverrunFlag :
    heldBusy.busy = true ∧ DiscardedWhileBusy (0x02C : Offset).toNat ∧ DiscardedWhileBusy (0x000 : Offset).toNat ∧
    (0x4 : Word).getLsbD 2 = true ∧
    field (step (busyWith 0 [.write 0x02C 4 0] State.reset)) State.ovr = some true ∧
    field (step { State.reset with ovr := true, inputs := [.reset] }) State.ovr = some false ∧
    field (step { State.reset with ovr := true, inputs := [.write 0x004 4 0xF] }) State.ovr = some false ∧
    field (exec .nop State.reset) State.ovr = some false := by
  unfold DiscardedWhileBusy
  decide

theorem witness_EveryStepKeepsTheInvariant : Inv heldBusy ∧ ∃ t, step heldBusy = .next t :=
  ⟨heldBusy_inv, _, rfl⟩

/-- Steps that change KEY, CMDL, FRK, SRK, FKV and SKV. -/
theorem witness_EachRegisterHasItsWriters :
    (field (step { State.reset with inputs := [.write 0x01C 4 1] }) State.key).any (· ≠ 0) = true ∧
    (field (step { State.reset with inputs := [.write 0x02C 4 1] }) State.data).any (· ≠ 0) = true ∧
    (field (step (busyWith 0x23 [] State.reset)) State.data).any (· ≠ 0) = true ∧
    (field (step { State.reset with inputs := [.write 0x000 4 1] }) State.cmdl).any (· ≠ 0) = true ∧
    (field (step (busyWith 0x10 [] State.reset)) fun t => (t.frk[0].isSome, t.fkv)) = some (true, true) ∧
    (field (step (busyWith 0x20 [] State.reset)) fun t => (t.srk[0].isSome, t.skv)) = some (true, true) := by
  decide +kernel

theorem witness_ValidFlagsHaveTheirWriters :
    field (step { feistelState 0 with inputs := [.write 0x010 4 0] }) State.fkv = some false ∧
    field (step { spnState 0 with inputs := [.write 0x01C 4 0] }) State.skv = some false ∧
    (feistelState 0).fkv = true ∧ (spnState 0).skv = true := by decide +kernel

theorem witness_FeistelCommandsIgnoreTheLowHalves : feistelCommand (.fRnd 15) = true := by decide

theorem witness_BusyCommandIsUndisturbed : Inv heldBusy ∧ heldBusy.busy = true ∧
    ∀ e ∈ [Event.write 0x010 4 5, .read 0x020 4, .write 0x004 4 4], fromHost e = true :=
  ⟨heldBusy_inv, rfl, by decide⟩

theorem witness_EveryCommandCompletes :
    ∃ s : State, s.busy = true ∧ s.inputs = [.read 0x004 4, .core] ∧ Event.reset ∉ s.inputs :=
  ⟨busyWith 0x10 [.read 0x004 4, .core] State.reset, rfl, rfl, by decide⟩

/-- The machine's tables meet the constraints the table statements assume, and parity bits are free to differ. -/
theorem witness_table_statements : feistelTablesOk feistelTables = true ∧ spnTablesOk spnTables = true ∧
    (∀ n ∈ List.range 65, 1 ≤ n → n ≤ 64 → n % 8 ≠ 0 →
      dbit (0x133457799BBCDFF1 : Block64) n = dbit (0x133457799BBCDFF0 : Block64) n) := by decide +kernel

theorem witness_FeistelBlockCommands : heldBusy.fkv = true ∧
    ∀ i : Fin 16, heldBusy.frk[i] = some (keySchedule feistelTables 0x2B7E151628AED2A6)[i] :=
  ⟨rfl, fun i => by simp [heldBusy]⟩

theorem witness_FeistelRoundCommand :
    (feistelState 0).fkv = true ∧ (feistelState 0).frk[(15 : BitVec 4).toFin] = some 0xCB3D8B0E17F5 := by decide +kernel

theorem witness_FeistelLayersEqualTheBlockCommands :
    heldBusy.fkv = true ∧ ∀ i : Fin 16, heldBusy.frk[i].isSome = true := ⟨rfl, fun i => by simp [heldBusy]⟩

theorem witness_AddRoundKeyCommand : (10 : BitVec 4).toNat ≤ 10 ∧ (spnState 0).skv = true ∧
    ∀ c : Fin 4, (spnState 0).srk[4 * (10 : BitVec 4).toNat + c.val]? =
      some (some ((#v[0xD014F9A8, 0xC9EE2589, 0xE13F0CC8, 0xB6630CA6] : Vector Word 4)[c])) := by decide +kernel

theorem witness_BadRound : 11 ≤ (11 : BitVec 4).toNat ∧ (10 : BitVec 4).toNat ≤ 10 ∧
    (∃ t, exec (.sArk 10) State.reset = .next t) ∧ ∃ t, exec (.fRnd 15) State.reset = .next t :=
  ⟨by decide, by decide, ⟨_, rfl⟩, ⟨_, rfl⟩⟩

theorem witness_SpnBlockCommands : heldBusy.skv = true ∧
    ∀ j : Fin 44, heldBusy.srk[j] = some (keyExpansion spnTables 0x2B7E151628AED2A6ABF7158809CF4F3C)[j] :=
  ⟨rfl, fun j => by simp [heldBusy]⟩

theorem witness_SpnLayersEqualTheBlockCommands_DecryptionRestoresTheState :
    heldBusy.skv = true ∧ ∀ j : Fin 44, heldBusy.srk[j].isSome = true := ⟨rfl, fun j => by simp [heldBusy]⟩

theorem witness_LayerCommandsUndoEachOther :
    [Instr.sMix, Instr.sImix] ∈ ([[.fIp, .fFp], [.fFp, .fIp], [.fSwap, .fSwap], [.sSub, .sIsub], [.sShr, .sIshr],
      [.sMix, .sImix], [.sShr, .sShr, .sShr, .sShr]] : List (List Instr)) := by decide

theorem witness_PollLoopsWhileBusy :
    (stmtPoll (.fresh 3))[1]? = some (.bnz (.reg .status) 0x1 (.fresh 3)) ∧
      labelIndex (stmtPoll (.fresh 3)) (.fresh 3) = some 0 := by decide

theorem witness_HexAndPadding : (0 : Byte).toNat = 0 ∧ Engine.feistel.blockBytes < (9 : Byte).toNat ∧
    Engine.spn.blockBytes < (17 : Byte).toNat ∧ 1 ≤ (1 : Byte).toNat ∧ (1 : Byte).toNat ≤ Engine.feistel.blockBytes ∧
    (8 : Byte).toNat ≤ Engine.feistel.blockBytes ∧ (16 : Byte).toNat ≤ Engine.spn.blockBytes := by decide

theorem witness_DriverRefusals :
    hexToBytes "not-hex".toList = none ∧ hexToBytes "zz".toList = none ∧
    hexToBytes "133457799BBCDFF1".toList = some [0x13, 0x34, 0x57, 0x79, 0x9B, 0xBC, 0xDF, 0xF1] ∧
    ¬ (Char.ofNat 0x100).toNat ≤ 0xFF := by decide +kernel

theorem witness_DriverRoundTrip :
    State.reset.busy = false ∧ State.reset.ovr = false ∧ (∀ c ∈ ['H', 'E', 'L', 'L', 'O'], c.toNat ≤ 0xFF) ∧
    ∃ k, hexToBytes "133457799BBCDFF1".toList = some k ∧ k.length = Engine.feistel.blockBytes :=
  ⟨rfl, rfl, by simp, [0x13, 0x34, 0x57, 0x79, 0x9B, 0xBC, 0xDF, 0xF1], by decide +kernel⟩

/-! ## The text of host programs (R89, R91, R92) -/

theorem test_assemble_text :
    assembleProgram "wr CMD, 0x00000C29 ; raw\nP: bnz STATUS, 0x1, P\nrd 0x008\nrd FRKL15\ncmd F_RND 0x5".toList =
      some [.wr (.reg .cmd) 0x00000C29, .label (.named ['P']), .bnz (.reg .status) 0x1 (.named ['P']), .rd (.raw 0x008),
        .rd (.reg (.frkl 15)), .wr (.reg .cmd) 0x00000515] := by decide +kernel

/-- The expansion by R92, by hand: the outer variable stands in the inner bounds and in a register's name. -/
theorem test_assemble_repeat :
    assembleProgram ("L: repeat r in 1..=0 down ".toList ++ [openBrace] ++ "repeat m in 0..=r ".toList ++ [openBrace] ++
        "cmd S_ARK m".toList ++ [closeBrace] ++ "rd KEYr".toList ++ [closeBrace]) =
      some [.label (.named ['L']), .wr (.reg .cmd) 0x00000029, .wr (.reg .cmd) 0x00000129, .rd (.reg (.key 1)),
        .wr (.reg .cmd) 0x00000029, .rd (.reg (.key 0))] := by decide +kernel

theorem test_assembler_refuses_text :
    assembleProgram "cmd F_KS 1".toList = none ∧ assembleProgram "run S_ARK 11".toList = none := by decide +kernel

end Sys2Proof.Tests
end

section
/-! The register window on the host bus (00_scope.md R8, 20_memory.md R51): the platform's decoding `busOffset` and
the addition of BASE undo each other. -/

namespace Sys2Proof.Machine

/-- Ten bits of offset stay below WINDOW_BYTES = 0x400, so BASE + off is always inside the window. -/
@[simp] theorem busOffset_base_add (off : Offset) : busOffset (Config.base + off.toNat) = some off := by
  have hoff : off.toNat < 0x400 := off.isLt
  rw [busOffset, if_pos (by omega), Nat.add_sub_cancel_left, BitVec.ofNat_toNat, BitVec.setWidth_eq]

theorem eq_base_add_of_busOffset_eq_some {addr : Nat} {off : Offset} (h : busOffset addr = some off) :
    addr = Config.base + off.toNat := by
  unfold busOffset at h
  split at h
  case isTrue hwindow =>
    obtain rfl := Option.some.inj h
    have hnowrap : (BitVec.ofNat 10 (addr - Config.base)).toNat = addr - Config.base := by
      rw [BitVec.toNat_ofNat, Nat.mod_eq_of_lt (by omega)]
    omega
  case isFalse => cases h

/-- Settles O18: inside the window the ten-bit offset is `addr - BASE` without a wrap, and every offset is inside. -/
theorem windowAtBase : Obligations.WindowAtBase := by
  unfold Obligations.WindowAtBase
  intro addr off
  constructor
  · exact eq_base_add_of_busOffset_eq_some
  · rintro rfl
    exact busOffset_base_add off

end Sys2Proof.Machine
end

section
/-! The registers of the window by their offsets (20_memory.md R52), and what a write does to the register it reaches
(R60 to R65). -/

namespace Sys2Proof.Machine

/-- A mapped offset is the offset of the register it names (R52, R90). -/
theorem eq_offset_of_regAt {off : Offset} {r : PortReg} (h : regAt off = some r) : off = r.offset := by
  apply BitVec.eq_of_toNat_eq
  unfold regAt at h
  dsimp only at h
  split_ifs at h
  all_goals
    obtain rfl := Option.some.inj h
    simp only [PortReg.offset, BitVec.toNat_ofNat, BitVec.reduceToNat]
    omega

@[simp] theorem offset_key_toNat (k : Fin 4) : (PortReg.key k).offset.toNat = 0x010 + 4 * k.val := by
  revert k; decide

@[simp] theorem offset_data_toNat (k : Fin 4) : (PortReg.data k).offset.toNat = 0x020 + 4 * k.val := by
  revert k; decide

theorem offset_key_mem (k : Fin 4) : (PortReg.key k).offset = 0x010 ∨ (PortReg.key k).offset = 0x014 ∨
    (PortReg.key k).offset = 0x018 ∨ (PortReg.key k).offset = 0x01C := by
  revert k; decide

theorem offset_key_of_lt_two {k : Fin 4} (hk : k.val < 2) :
    (PortReg.key k).offset = 0x010 ∨ (PortReg.key k).offset = 0x014 := by
  revert k; decide

/-- The registers whose writes a busy block discards (R30). -/
def PortReg.discardedWhileBusy : PortReg → Bool
  | .cmd | .key _ | .data _ => true
  | .status | .frkh _ | .frkl _ | .srkw _ => false

theorem discardedWhileBusy_iff {off : Offset} :
    DiscardedWhileBusy off.toNat ↔ ∃ r : PortReg, r.discardedWhileBusy = true ∧ off = r.offset := by
  constructor
  · intro h
    have hoff : off.toNat = 0 ∨ (∃ k : Fin 4, off.toNat = 0x010 + 4 * k.val) ∨
        ∃ k : Fin 4, off.toNat = 0x020 + 4 * k.val := by
      obtain h | ⟨hlo, hhi, h4⟩ := h
      · exact .inl h
      · by_cases hk : off.toNat < 0x020
        · exact .inr (.inl ⟨⟨(off.toNat - 0x010) / 4, by omega⟩, by simp only; omega⟩)
        · exact .inr (.inr ⟨⟨(off.toNat - 0x020) / 4, by omega⟩, by simp only; omega⟩)
    obtain h | ⟨k, h⟩ | ⟨k, h⟩ := hoff
    · exact ⟨.cmd, rfl, BitVec.eq_of_toNat_eq h⟩
    · exact ⟨.key k, rfl, BitVec.eq_of_toNat_eq (by rw [h, offset_key_toNat])⟩
    · exact ⟨.data k, rfl, BitVec.eq_of_toNat_eq (by rw [h, offset_data_toNat])⟩
  · rintro ⟨r, hr, rfl⟩
    cases r with
    | cmd => exact .inl rfl
    | key k => exact .inr (by rw [offset_key_toNat]; omega)
    | data k => exact .inr (by rw [offset_data_toNat]; omega)
    | status | frkh | frkl | srkw => cases hr

theorem memWrite_offset (r : PortReg) (v : Word) (s : State) : memWrite r.offset 4 v s = writeReg r v s :=
  access_mapped (regAt_offset r) _ s

theorem unlessBusy_busy {s : State} (h : s.busy = true) (write : State → State) :
    unlessBusy write s = (.written, overrun s) := by simp [unlessBusy, h]

theorem unlessBusy_idle {s : State} (h : s.busy = false) (write : State → State) :
    unlessBusy write s = (.written, write s) := by simp [unlessBusy, h]

theorem writeReg_busy {r : PortReg} (hr : r.discardedWhileBusy = true) {s : State} (h : s.busy = true) (v : Word) :
    writeReg r v s = (.written, overrun s) := by
  cases r with
  | cmd | key | data => exact unlessBusy_busy h _
  | status | frkh | frkl | srkw => cases hr

end Sys2Proof.Machine
end

section
/-! What one step does to the block, said once: every rule about a register or a flag is read off these cases. -/

namespace Sys2Proof.Machine

/-- The states a step can lead to from `s`, each with the event that leads there. The inputs left, the responses and the
count of free values stand outside the block, and what they become is left open. -/
inductive StepEffect (s : State) : State → Prop where
  /-- The core's turn on an idle block, a read, or a write answered `BusError`: the block is unchanged. -/
  | unchanged {is rs d} : StepEffect s { s with inputs := is, responses := rs, draws := d }
  /-- A completion that writes no round keys; DATA changes only by a command of R33's list. -/
  | completed {c D is d} (hcore : CoreNext s) (hbusy : s.busy = true)
      (hdata : D = s.data ∨ ∃ i, decode s.cmdl = .ok i ∧ writesData i = true) :
      StepEffect s (finish c { s with data := D, inputs := is, draws := d })
  /-- The completion of F_KS (R160). -/
  | feistelScheduled {c is} (hcore : CoreNext s) (hbusy : s.busy = true) (hcmd : decode s.cmdl = .ok .fKs) :
      StepEffect s (finish c { s with
        frk := (keySchedule feistelTables s.fkey).map some, fkv := true, inputs := is })
  /-- The completion of S_KX (R240). -/
  | spnScheduled {c is} (hcore : CoreNext s) (hbusy : s.busy = true) (hcmd : decode s.cmdl = .ok .sKx) :
      StepEffect s (finish c { s with
        srk := (keyExpansion spnTables s.key).map some, skv := true, inputs := is })
  /-- A write to STATUS (R61). -/
  | statusWritten {v rest rs} (hin : s.inputs = .write PortReg.status.offset 4 v :: rest) :
      StepEffect s { writeStatus v s with inputs := rest, responses := rs }
  /-- A write that a busy block discards (R30). -/
  | overran {off v rest rs} (hbusy : s.busy = true) (hin : s.inputs = .write off 4 v :: rest)
      (hoff : DiscardedWhileBusy off.toNat) : StepEffect s { overrun s with inputs := rest, responses := rs }
  /-- The acceptance of a command (R111). -/
  | accepted {v rest rs} (hidle : s.busy = false) (hin : s.inputs = .write PortReg.cmd.offset 4 v :: rest) :
      StepEffect s { accept v s with inputs := rest, responses := rs }
  /-- A write to KEYk of an idle block (R60). -/
  | keyWritten {k v rest rs} (hidle : s.busy = false) (hin : s.inputs = .write (PortReg.key k).offset 4 v :: rest) :
      StepEffect s { writeKey k v s with inputs := rest, responses := rs }
  /-- A write to DATAk of an idle block (R64). -/
  | dataWritten {k v rest rs} (hidle : s.busy = false) (hin : s.inputs = .write (PortReg.data k).offset 4 v :: rest) :
      StepEffect s { writeData k v s with inputs := rest, responses := rs }
  /-- A reset (R340). -/
  | wasReset {rest} (hin : s.inputs = .reset :: rest) : StepEffect s (applyReset { s with inputs := rest })

namespace StepEffect

theorem of_read {s : State} (off : Offset) (size : Nat) (rest : List Event) :
    StepEffect s (respond (memRead off size { s with inputs := rest })) := by
  rcases memRead_state off size { s with inputs := rest } with h | h <;> rw [respond, h] <;> exact .unchanged

/-- A write that BUSY guards: discarded by a busy block, done by an idle one. -/
theorem of_unlessBusy {s : State} {off : Offset} {v : Word} {rest : List Event} {write : State → State}
    (hin : s.inputs = .write off 4 v :: rest) (hoff : DiscardedWhileBusy off.toNat)
    (hwrite : s.busy = false → StepEffect s (respond (.written, write { s with inputs := rest }))) :
    StepEffect s (respond (unlessBusy write { s with inputs := rest })) := by
  obtain hb | hb := Bool.eq_false_or_eq_true s.busy
  · rw [unlessBusy_busy (by exact hb)]; exact .overran hb hin hoff
  · rw [unlessBusy_idle (by exact hb)]; exact hwrite hb

theorem of_write {s : State} {off : Offset} {size : Nat} {v : Word} {rest : List Event}
    (hin : s.inputs = .write off size v :: rest) :
    StepEffect s (respond (memWrite off size v { s with inputs := rest })) := by
  rcases access_cases off size (fun r => writeReg r v) { s with inputs := rest } with h | ⟨r, rfl, hr, h⟩
  · rw [memWrite, h]; exact .unchanged
  · obtain rfl := eq_offset_of_regAt hr
    rw [memWrite, h]
    cases r with
    | cmd => exact of_unlessBusy hin (discardedWhileBusy_iff.2 ⟨.cmd, rfl, rfl⟩) fun hb => .accepted hb hin
    | key k => exact of_unlessBusy hin (discardedWhileBusy_iff.2 ⟨.key k, rfl, rfl⟩) fun hb => .keyWritten hb hin
    | data k => exact of_unlessBusy hin (discardedWhileBusy_iff.2 ⟨.data k, rfl, rfl⟩) fun hb => .dataWritten hb hin
    | status => exact .statusWritten hin
    | frkh | frkl | srkw => exact .unchanged

theorem of_exec {s t : State} {i : Instr} {is : List Event} (hcore : CoreNext s) (hbusy : s.busy = true)
    (hcmd : decode s.cmdl = .ok i) (h : exec i { s with inputs := is } = .next t) : StepEffect s t := by
  obtain ⟨c, u, rfl, ⟨D, d, hD, rfl⟩ | ⟨rfl, rfl⟩ | ⟨rfl, rfl⟩⟩ := exec_cases h
  · exact .completed hcore hbusy (hD.imp_right fun hw => ⟨i, hcmd, hw⟩)
  · exact .feistelScheduled hcore hbusy hcmd
  · exact .spnScheduled hcore hbusy hcmd

end StepEffect

theorem step_effect {s t : State} (h : step s = .next t) : StepEffect s t := by
  rcases step_cases h with ⟨-, -, rfl⟩ | ⟨hcore, hbusy, i, hcmd, hexec⟩ | ⟨hcore, hbusy, -, rfl⟩ |
    ⟨off, size, rest, -, rfl⟩ | ⟨off, size, v, rest, hin, rfl⟩ | ⟨rest, hin, rfl⟩
  · exact .unchanged
  · exact .of_exec hcore hbusy hcmd hexec
  · exact .completed hcore hbusy (.inl rfl)
  · exact .of_read off size rest
  · exact .of_write hin
  · exact .wasReset hin

end Sys2Proof.Machine
end

section
/-! The invariant of the block (10_state.md R23 to R26, R28, R29): it holds after reset, and every update a step can
make keeps it. -/

namespace Sys2Proof.Machine

/-! ## The schedules stay held where the flag, the key and the round keys stay -/

theorem FeistelScheduleHeld.of_kept {s t : State} (h : FeistelScheduleHeld s)
    (hkept : t.fkv = true → s.fkv = true ∧ t.fkey = s.fkey ∧ t.frk = s.frk) : FeistelScheduleHeld t := by
  intro hv i
  obtain ⟨hfkv, hkey, hfrk⟩ := hkept hv
  rw [hkey, hfrk]
  exact h hfkv i

theorem writtenAsWhole_replicate_none {α : Type} (n : Nat) : WrittenAsWhole (Vector.replicate n (none : Option α)) :=
  .inl fun i => by simp

theorem writtenAsWhole_map_some {α : Type} {n : Nat} (values : Vector α n) : WrittenAsWhole (values.map some) :=
  .inr fun i => by simp

/-- FKEY is KEY0 and KEY1 (R20). -/
theorem fkey_eq_words (s : State) : s.fkey = wordOf s.key 0 ++ wordOf s.key 1 :=
  (BitVec.extractLsb'_append_extractLsb'_eq_extractLsb' (start₁ := 64) (len₁ := 32) (len₂ := 32) rfl).symm

/-- KEY2 and KEY3 are no part of FKEY (R20). -/
theorem fkey_writeKey {k : Fin 4} (hk : 2 ≤ k.val) (v : Word) (s : State) : (writeKey k v s).fkey = s.fkey := by
  have hword : ∀ j < 2, wordOf (setWord s.key k v) j = wordOf s.key j := fun j hj => by
    rw [wordOf_setWord _ _ _ _ (by omega), if_neg (by omega)]
  rw [fkey_eq_words, fkey_eq_words, writeKey_key, hword 0 (by omega), hword 1 (by omega)]

/-! ## Each update keeps the invariant -/

namespace Inv

/-- Only KEY, the round keys, their flags and the status flags matter to it. -/
theorem of_same_keys {s : State} (h : Inv s) (D : Block128) (o : Bool) (is : List Event) (rs : List Response) (d : Nat) :
    Inv { s with data := D, ovr := o, inputs := is, responses := rs, draws := d } :=
  ⟨h.feistel, h.spn, h.frk, h.srk, h.status⟩

theorem finish {s : State} (h : Inv s) (c : ErrCode) : Inv (finish c s) where
  feistel := h.feistel
  spn := h.spn
  frk := h.frk
  srk := h.srk
  status := ⟨by simp, by simp⟩

theorem accept {s : State} (h : Inv s) (v : Word) : Inv (accept v s) where
  feistel := h.feistel
  spn := h.spn
  frk := h.frk
  srk := h.srk
  status := ⟨by simp, by simp⟩

/-- A key write clears SKV, and FKV where it reaches FKEY. -/
theorem writeKey {s : State} (h : Inv s) (k : Fin 4) (v : Word) : Inv (writeKey k v s) where
  feistel := h.feistel.of_kept fun hv => by
    rw [writeKey_fkv, Bool.and_eq_true, decide_eq_true_iff] at hv
    exact ⟨hv.1, fkey_writeKey hv.2 v s, rfl⟩
  spn := fun hv => by simp at hv
  frk := h.frk
  srk := h.srk
  status := h.status

theorem feistelScheduled {s : State} (h : Inv s) :
    Inv { s with frk := (keySchedule feistelTables s.fkey).map some, fkv := true } where
  feistel := fun _ i => by simp [State.fkey]
  spn := h.spn
  frk := writtenAsWhole_map_some _
  srk := h.srk
  status := h.status

theorem spnScheduled {s : State} (h : Inv s) :
    Inv { s with srk := (keyExpansion spnTables s.key).map some, skv := true } where
  feistel := h.feistel
  spn := fun _ j => by simp
  frk := h.frk
  srk := writtenAsWhole_map_some _
  status := h.status

theorem reset : Inv State.reset where
  feistel := fun hv => by cases hv
  spn := fun hv => by cases hv
  frk := writtenAsWhole_replicate_none 16
  srk := writtenAsWhole_replicate_none 44
  status := ⟨fun ⟨hb, _⟩ => Bool.false_ne_true hb, fun _ => rfl⟩

theorem stepEffect {s t : State} (h : Inv s) (ht : StepEffect s t) : Inv t := by
  cases ht with
  | unchanged | statusWritten | overran | dataWritten => exact h.of_same_keys ..
  | completed => exact (h.of_same_keys ..).finish _
  | feistelScheduled => exact (h.feistelScheduled.of_same_keys ..).finish _
  | spnScheduled => exact (h.spnScheduled.of_same_keys ..).finish _
  | accepted => exact (h.accept _).of_same_keys ..
  | keyWritten => exact (h.writeKey _ _).of_same_keys ..
  | wasReset => exact reset.of_same_keys ..

end Inv

/-- Settles O22: no flag is set, every entry is empty. -/
theorem invariantAtReset : Obligations.InvariantAtReset := Inv.reset

/-- Settles O23: a step is one of the updates of `StepEffect`, and each of them keeps the invariant. -/
theorem everyStepKeepsTheInvariant : Obligations.EveryStepKeepsTheInvariant := by
  unfold Obligations.EveryStepKeepsTheInvariant
  exact fun _ _ h hstep => h.stepEffect (step_effect hstep)

end Sys2Proof.Machine
end

section
/-! STATUS as the host reads it (10_state.md R27, R31), and the block after reset (R37). -/

namespace Sys2Proof.Machine

/-- STATUS bit by bit (R27). -/
theorem getLsbD_statusWord (s : State) (i : Nat) : (statusWord s).getLsbD i =
    if i = 0 then s.busy else if i = 1 then s.done else if i = 2 then s.ovr
    else if 4 ≤ i ∧ i < 8 then s.err.code.getLsbD (i - 4)
    else if i = 8 then s.fkv else if i = 9 then s.skv else false := by
  unfold statusWord
  repeat rw [BitVec.getLsbD_append]
  simp only [BitVec.getLsbD_ofBool, Nat.sub_sub, Nat.reduceAdd]
  split_ifs <;> grind

/-- Bits 7:4 of STATUS are the number of the result code (R31). -/
theorem extractLsb'_statusWord_err (s : State) : (statusWord s).extractLsb' 4 4 = s.err.code := by
  apply BitVec.eq_of_getLsbD_eq
  intro i hi
  have hfield : (statusWord s).getLsbD (4 + i) = s.err.code.getLsbD i := by
    rw [getLsbD_statusWord, if_neg (by omega), if_neg (by omega), if_neg (by omega), if_pos (by omega),
      Nat.add_sub_cancel_left]
  rw [BitVec.getLsbD_extractLsb', decide_eq_true hi, Bool.true_and, hfield]

/-- Settles O14: each bit stands where `getLsbD_statusWord` says, and bits 7:4 are the code. -/
theorem statusBits : Obligations.StatusBits := by
  unfold Obligations.StatusBits
  intro s
  have bit := getLsbD_statusWord s
  have code {e : ErrCode} (h : s.err = e) : (statusWord s).extractLsb' 4 4 = e.code :=
    h ▸ extractLsb'_statusWord_err s
  have high : ∀ i, 10 ≤ i → (statusWord s).getLsbD i = false := fun i hi => by
    rw [bit, if_neg (by omega), if_neg (by omega), if_neg (by omega), if_neg (by omega), if_neg (by omega),
      if_neg (by omega)]
  exact ⟨bit 0, bit 1, bit 2, bit 3, code, code, code, code, bit 8, bit 9, high⟩

/-- Settles O20: every element has the value of R37, and the core's turn on an idle block waits. -/
theorem resetState : Obligations.ResetState := by
  unfold Obligations.ResetState
  refine ⟨rfl, rfl, fun i => ?_, fun j => ?_, rfl, rfl, rfl, rfl, rfl, rfl, rfl, rfl, ?_⟩
  · simp [State.reset]
  · simp [State.reset]
  · rw [step_idle rfl, coreTurn_idle rfl]

end Sys2Proof.Machine
end

section
/-! Who can change each register and each flag: read off the cases of `StepEffect` (R20, R21, R23 to R26, R30, R32,
R33). -/

namespace Sys2Proof.Machine

namespace StepEffect

variable {s t : State}

theorem key_writer (h : StepEffect s t) (hne : t.key ≠ s.key) : (∃ rest, s.inputs = .reset :: rest) ∨
    (s.busy = false ∧ ∃ k v rest, s.inputs = .write (PortReg.key k).offset 4 v :: rest) := by
  cases h with
  | wasReset hin => exact .inl ⟨_, hin⟩
  | keyWritten hidle hin => exact .inr ⟨hidle, _, _, _, hin⟩
  | _ => exact absurd rfl hne

theorem data_writer (h : StepEffect s t) (hne : t.data ≠ s.data) : (∃ rest, s.inputs = .reset :: rest) ∨
    (s.busy = false ∧ ∃ k v rest, s.inputs = .write (PortReg.data k).offset 4 v :: rest) ∨
    (CoreNext s ∧ s.busy = true ∧ ∃ i, decode s.cmdl = .ok i ∧ writesData i = true) := by
  cases h with
  | wasReset hin => exact .inl ⟨_, hin⟩
  | dataWritten hidle hin => exact .inr (.inl ⟨hidle, _, _, _, hin⟩)
  | completed hcore hbusy hdata => exact .inr (.inr ⟨hcore, hbusy, hdata.resolve_left hne⟩)
  | _ => exact absurd rfl hne

theorem cmdl_writer (h : StepEffect s t) (hne : t.cmdl ≠ s.cmdl) : (∃ rest, s.inputs = .reset :: rest) ∨
    (s.busy = false ∧ ∃ rest, s.inputs = .write 0x000 4 t.cmdl :: rest) := by
  cases h with
  | wasReset hin => exact .inl ⟨_, hin⟩
  | accepted hidle hin => exact .inr ⟨hidle, _, hin⟩
  | _ => exact absurd rfl hne

theorem frk_writer (h : StepEffect s t) (hne : t.frk ≠ s.frk) : (∃ rest, s.inputs = .reset :: rest) ∨
    (CoreNext s ∧ s.busy = true ∧ decode s.cmdl = .ok .fKs) := by
  cases h with
  | wasReset hin => exact .inl ⟨_, hin⟩
  | feistelScheduled hcore hbusy hcmd => exact .inr ⟨hcore, hbusy, hcmd⟩
  | _ => exact absurd rfl hne

theorem srk_writer (h : StepEffect s t) (hne : t.srk ≠ s.srk) : (∃ rest, s.inputs = .reset :: rest) ∨
    (CoreNext s ∧ s.busy = true ∧ decode s.cmdl = .ok .sKx) := by
  cases h with
  | wasReset hin => exact .inl ⟨_, hin⟩
  | spnScheduled hcore hbusy hcmd => exact .inr ⟨hcore, hbusy, hcmd⟩
  | _ => exact absurd rfl hne

theorem fkv_setter (h : StepEffect s t) (hs : s.fkv = false) (ht : t.fkv = true) :
    CoreNext s ∧ s.busy = true ∧ decode s.cmdl = .ok .fKs := by
  cases h with
  | feistelScheduled hcore hbusy hcmd => exact ⟨hcore, hbusy, hcmd⟩
  | keyWritten => simp [hs] at ht
  | wasReset => exact absurd ht Bool.false_ne_true
  | _ => exact absurd (hs.symm.trans ht) Bool.false_ne_true

theorem fkv_clearer (h : StepEffect s t) (hs : s.fkv = true) (ht : t.fkv = false) :
    (∃ rest, s.inputs = .reset :: rest) ∨
    (s.busy = false ∧ ∃ k v rest, k.val < 2 ∧ s.inputs = .write (PortReg.key k).offset 4 v :: rest) := by
  cases h with
  | wasReset hin => exact .inl ⟨_, hin⟩
  | @keyWritten k v _ _ hidle hin =>
    have hk : k.val < 2 := by simpa [hs] using ht
    exact .inr ⟨hidle, k, v, _, hk, hin⟩
  | feistelScheduled => exact absurd ht.symm Bool.false_ne_true
  | _ => exact absurd (ht.symm.trans hs) Bool.false_ne_true

theorem skv_setter (h : StepEffect s t) (hs : s.skv = false) (ht : t.skv = true) :
    CoreNext s ∧ s.busy = true ∧ decode s.cmdl = .ok .sKx := by
  cases h with
  | spnScheduled hcore hbusy hcmd => exact ⟨hcore, hbusy, hcmd⟩
  | keyWritten | wasReset => exact absurd ht Bool.false_ne_true
  | _ => exact absurd (hs.symm.trans ht) Bool.false_ne_true

theorem skv_clearer (h : StepEffect s t) (hs : s.skv = true) (ht : t.skv = false) :
    (∃ rest, s.inputs = .reset :: rest) ∨
    (s.busy = false ∧ ∃ k v rest, s.inputs = .write (PortReg.key k).offset 4 v :: rest) := by
  cases h with
  | wasReset hin => exact .inl ⟨_, hin⟩
  | keyWritten hidle hin => exact .inr ⟨hidle, _, _, _, hin⟩
  | spnScheduled => exact absurd ht.symm Bool.false_ne_true
  | _ => exact absurd (ht.symm.trans hs) Bool.false_ne_true

theorem ovr_setter (h : StepEffect s t) (hs : s.ovr = false) (ht : t.ovr = true) :
    s.busy = true ∧ ∃ off v rest, s.inputs = .write off 4 v :: rest ∧ DiscardedWhileBusy off.toNat := by
  cases h with
  | overran hbusy hin hoff => exact ⟨hbusy, _, _, _, hin, hoff⟩
  | statusWritten => simp [hs] at ht
  | wasReset => exact absurd ht Bool.false_ne_true
  | _ => exact absurd (hs.symm.trans ht) Bool.false_ne_true

theorem ovr_clearer (h : StepEffect s t) (hs : s.ovr = true) (ht : t.ovr = false) :
    (∃ rest, s.inputs = .reset :: rest) ∨
    ∃ v rest, s.inputs = .write 0x004 4 v :: rest ∧ v.getLsbD 2 = true := by
  cases h with
  | wasReset hin => exact .inl ⟨_, hin⟩
  | statusWritten hin => exact .inr ⟨_, _, hin, by simpa [hs] using ht⟩
  | overran => exact absurd ht.symm Bool.false_ne_true
  | _ => exact absurd (ht.symm.trans hs) Bool.false_ne_true

end StepEffect

theorem exec_ovr {i : Instr} {s t : State} (h : exec i s = .next t) : t.ovr = s.ovr := by
  obtain ⟨c, u, rfl, ⟨_, _, _, rfl⟩ | ⟨_, rfl⟩ | ⟨_, rfl⟩⟩ := exec_cases h <;> rfl

/-- A busy block discards a write to a guarded register and sets OVR (R30). -/
theorem step_write_discarded {s : State} {off : Offset} (hbusy : s.busy = true) (hoff : DiscardedWhileBusy off.toNat)
    (v : Word) (rest : List Event) : step { s with inputs := .write off 4 v :: rest } =
      .next { s with inputs := rest, responses := .written :: s.responses, ovr := true } := by
  obtain ⟨r, hr, rfl⟩ := discardedWhileBusy_iff.1 hoff
  rw [step_cons, applyEvent_write, memWrite_offset, writeReg_busy hr (by exact hbusy)]
  rfl

/-- A write to STATUS reaches OVR alone, in a busy block too (R61). -/
theorem step_write_status (s : State) (v : Word) (rest : List Event) :
    step { s with inputs := .write 0x004 4 v :: rest } =
      .next (respond (.written, writeStatus v { s with inputs := rest })) := by
  rw [step_cons, applyEvent_write, show (0x004 : Offset) = PortReg.status.offset from rfl, memWrite_offset]
  rfl

/-- Settles O19: a discarded write sets OVR, a write to STATUS clears it, and no other step touches it. -/
theorem overrunFlag : Obligations.OverrunFlag := by
  unfold Obligations.OverrunFlag
  refine ⟨?_, ?_, ?_, ?_, ?_⟩
  · exact fun s rest off v hbusy hoff => ⟨_, step_write_discarded hbusy hoff v rest⟩
  · exact fun s t h => (step_effect h).ovr_setter
  · exact fun s rest v hv => ⟨_, step_write_status s v rest, by simp [hv]⟩
  · exact fun s t h => (step_effect h).ovr_clearer
  · exact fun i s t => exec_ovr

/-- Settles O24: the writer of each register, and the offsets of KEY and DATA. -/
theorem eachRegisterHasItsWriters : Obligations.EachRegisterHasItsWriters := by
  unfold Obligations.EachRegisterHasItsWriters
  intro s t hstep
  have h := step_effect hstep
  refine ⟨fun hne => ?_, fun hne => ?_, h.cmdl_writer, h.frk_writer, h.srk_writer⟩
  · refine (h.key_writer hne).imp_right ?_
    rintro ⟨hidle, k, v, rest, hin⟩
    exact ⟨hidle, _, v, rest, hin, by rw [offset_key_toNat]; omega⟩
  · refine (h.data_writer hne).imp_right (Or.imp_left ?_)
    rintro ⟨hidle, k, v, rest, hin⟩
    exact ⟨hidle, _, v, rest, hin, by rw [offset_data_toNat]; omega⟩

/-- Settles O25: the two schedule commands set the flags; a reset and the key writes of an idle block clear them. -/
theorem validFlagsHaveTheirWriters : Obligations.ValidFlagsHaveTheirWriters := by
  unfold Obligations.ValidFlagsHaveTheirWriters
  intro s t hstep
  have h := step_effect hstep
  refine ⟨h.fkv_setter, fun hs ht => ?_, h.skv_setter, fun hs ht => ?_⟩
  · refine (h.fkv_clearer hs ht).imp_right ?_
    rintro ⟨hidle, k, v, rest, hk, hin⟩
    exact ⟨hidle, _, v, rest, hin, offset_key_of_lt_two hk⟩
  · refine (h.skv_clearer hs ht).imp_right ?_
    rintro ⟨hidle, k, v, rest, hin⟩
    exact ⟨hidle, _, v, rest, hin, offset_key_mem k⟩

end Sys2Proof.Machine
end

section
/-! The Feistel commands work on the high halves of KEY and DATA (10_state.md R20, R21; 41_feistel.md section 2). -/

namespace Sys2Proof.Machine

/-- The state with KEY[63:0] replaced; FKEY keeps its value (R20). -/
def State.setKeyLow (s : State) (K : Block64) : State := { s with key := s.key.extractLsb' 64 64 ++ K }

@[simp] theorem setKeyLow_fkey (s : State) (K : Block64) : (s.setKeyLow K).fkey = s.fkey :=
  BitVec.extractLsb'_append_eq_left

/-- An effect that leaves DATA[63:0] as it was and KEY as it was, and does the same whatever KEY[63:0] is. -/
def IgnoresLowHalves (effect : State → State) : Prop :=
  ∀ (s : State) (K : Block64), (effect s).data.extractLsb' 0 64 = s.data.extractLsb' 0 64 ∧
    effect (s.setKeyLow K) = { effect s with key := (s.setKeyLow K).key }

/-- The same of a command, which also answers with a next state. -/
def CommandIgnoresLowHalves (run : State → Result) : Prop :=
  ∀ (s : State) (K : Block64), ∃ t, run s = .next t ∧ t.data.extractLsb' 0 64 = s.data.extractLsb' 0 64 ∧
    run (s.setKeyLow K) = .next { t with key := (s.setKeyLow K).key }

theorem fails_ignoresLowHalves (code : ErrCode) : CommandIgnoresLowHalves (fails code) :=
  fun s _ => ⟨finish code s, rfl, rfl, rfl⟩

namespace IgnoresLowHalves

variable {effect : State → State}

theorem completes (h : IgnoresLowHalves effect) : CommandIgnoresLowHalves (completes effect) := by
  intro s K
  obtain ⟨hdata, heffect⟩ := h s K
  exact ⟨_, rfl, hdata, by rw [Machine.completes, heffect]; rfl⟩

theorem withFeistelSchedule (h : IgnoresLowHalves effect) :
    CommandIgnoresLowHalves (withFeistelSchedule effect) := by
  intro s K
  unfold Machine.withFeistelSchedule
  by_cases hv : s.fkv = true
  · rw [if_pos hv, if_pos (by exact hv)]; exact h.completes s K
  · rw [if_neg hv, if_neg (by exact hv)]; exact fails_ignoresLowHalves .noSchedule s K

/-- An effect on FBLK and the count of free values, where both are found without KEY. -/
theorem setFblk_drew {block : State → Block64} {used : State → Bool}
    (hblock : ∀ s K, block (s.setKeyLow K) = block s) (hused : ∀ s K, used (s.setKeyLow K) = used s) :
    IgnoresLowHalves fun s => (s.setFblk (block s)).drew (used s) := by
  intro s K
  refine ⟨BitVec.extractLsb'_append_eq_right, ?_⟩
  simp only [hblock, hused]
  rfl

theorem setFblk {block : State → Block64} (hblock : ∀ s K, block (s.setKeyLow K) = block s) :
    IgnoresLowHalves fun s => s.setFblk (block s) :=
  setFblk_drew (used := fun _ => false) hblock fun _ _ => rfl

theorem feistelSchedule : IgnoresLowHalves fun s =>
    { s with frk := (keySchedule feistelTables s.fkey).map some, fkv := true } := by
  intro s K
  exact ⟨rfl, by simp only [setKeyLow_fkey]; rfl⟩

end IgnoresLowHalves

theorem exec_ignoresLowHalves {i : Instr} (h : feistelCommand i = true) : CommandIgnoresLowHalves (exec i) := by
  cases i with
  | fKs => exact IgnoresLowHalves.feistelSchedule.completes
  | fEnc | fDec | fRnd rnd => exact (IgnoresLowHalves.setFblk_drew (fun _ _ => rfl) fun _ _ => rfl).withFeistelSchedule
  | fIp | fFp | fSwap => exact (IgnoresLowHalves.setFblk fun _ _ => rfl).completes
  | _ => cases h

/-- Settles O26: every Feistel command is an effect on FBLK, or F_KS, which reads FKEY only. -/
theorem feistelCommandsIgnoreTheLowHalves : Obligations.FeistelCommandsIgnoreTheLowHalves := by
  unfold Obligations.FeistelCommandsIgnoreTheLowHalves
  exact fun i s K h => exec_ignoresLowHalves h s K

end Sys2Proof.Machine
end

section
/-! The register map in full (20_memory.md R52, R53, R57): every register's offset as a number, and the offsets that name
no register. -/

namespace Sys2Proof.Machine

@[simp] theorem offset_frkh_toNat (i : Fin 16) : (PortReg.frkh i).offset.toNat = 0x100 + 8 * i.val := by
  revert i; decide

@[simp] theorem offset_frkl_toNat (i : Fin 16) : (PortReg.frkl i).offset.toNat = 0x104 + 8 * i.val := by
  revert i; decide

@[simp] theorem offset_srkw_toNat (j : Fin 44) : (PortReg.srkw j).offset.toNat = 0x200 + 4 * j.val := by
  revert j; decide

theorem offset_aligned_mapped (r : PortReg) : r.offset.toNat % 4 = 0 ∧ ¬ Unmapped r.offset.toNat := by
  unfold Unmapped
  cases r with
  | cmd | status => decide
  | key k => rw [offset_key_toNat]; omega
  | data k => rw [offset_data_toNat]; omega
  | frkh i => rw [offset_frkh_toNat]; omega
  | frkl i => rw [offset_frkl_toNat]; omega
  | srkw j => rw [offset_srkw_toNat]; omega

/-- A misaligned or unmapped offset names no register (R53, R57). -/
theorem regAt_eq_none {off : Offset} (h : off.toNat % 4 ≠ 0 ∨ Unmapped off.toNat) : regAt off = none := by
  rw [Option.eq_none_iff_forall_ne_some]
  intro r hr
  obtain rfl := eq_offset_of_regAt hr
  obtain ⟨haligned, hmapped⟩ := offset_aligned_mapped r
  exact h.elim (absurd haligned) hmapped

/-- Settles O17: `regAt` and `PortReg.offset` undo each other. -/
theorem registerMap : Obligations.RegisterMap := by
  unfold Obligations.RegisterMap
  intro off r
  constructor
  · exact eq_offset_of_regAt
  · rintro rfl
    exact regAt_offset r

end Sys2Proof.Machine
end

section
/-! The write function as one step (20_memory.md R60 to R62, R64): a write to a register reaches it by its offset, and a
guarded one takes effect exactly on an idle block. -/

namespace Sys2Proof.Machine

theorem step_write_offset (r : PortReg) (s : State) (v : Word) (rest : List Event) :
    step { s with inputs := .write r.offset 4 v :: rest } = .next (respond (writeReg r v { s with inputs := rest })) := by
  rw [step_cons, applyEvent_write, memWrite_offset]

/-- An idle block does the write of a guarded register. -/
theorem step_write_idle {r : PortReg} {v : Word} {write : State → State} (hr : writeReg r v = unlessBusy write)
    {s : State} (hidle : s.busy = false) (rest : List Event) :
    step { s with inputs := .write r.offset 4 v :: rest } =
      .next (respond (.written, write { s with inputs := rest })) := by
  rw [step_write_offset, hr, unlessBusy_idle (by exact hidle)]

/-- A busy block sets OVR and does nothing else. -/
theorem step_write_busy {r : PortReg} (hr : r.discardedWhileBusy = true) {s : State} (hbusy : s.busy = true) (v : Word)
    (rest : List Event) : step { s with inputs := .write r.offset 4 v :: rest } =
      .next { s with inputs := rest, responses := .written :: s.responses, ovr := true } :=
  step_write_discarded hbusy (discardedWhileBusy_iff.2 ⟨r, hr, rfl⟩) v rest

/-- Replacing word k, seen word by word. -/
theorem extractLsb'_setWord (x : Block128) (k : Fin 4) (w : Word) (j : Fin 4) :
    (setWord x k w).extractLsb' (96 - 32 * j.val) 32 =
      if j = k then w else x.extractLsb' (96 - 32 * j.val) 32 := by
  simp only [Fin.ext_iff]
  exact wordOf_setWord x k w j j.isLt

/-- FKV after a write to KEYk: only KEY0 and KEY1 are part of FKEY (R60). -/
theorem writeKey_fkv_eq_ite (k : Fin 4) (v : Word) (s : State) :
    (writeKey k v s).fkv = if k.val ≤ 1 then false else s.fkv := by
  rw [writeKey_fkv]
  by_cases hk : k.val ≤ 1
  · rw [if_pos hk, decide_eq_false (by omega), Bool.and_false]
  · rw [if_neg hk, decide_eq_true (by omega), Bool.and_true]

/-- Settles O11: an idle block does `writeKey`, which replaces one word by `setWord`. -/
theorem keyWrite : Obligations.KeyWrite := by
  unfold Obligations.KeyWrite
  intro s rest v k
  refine ⟨fun hbusy => ⟨_, step_write_busy (r := .key k) rfl hbusy v rest⟩, fun hidle => ?_⟩
  refine ⟨setWord s.key k v, ?_, extractLsb'_setWord s.key k v⟩
  rw [← writeKey_fkv_eq_ite k v s]
  exact step_write_idle (r := .key k) rfl hidle rest

/-- Settles O12: an idle block does `writeData`, which replaces one word by `setWord`. -/
theorem dataWrite : Obligations.DataWrite := by
  unfold Obligations.DataWrite
  intro s rest v k
  refine ⟨fun hbusy => ⟨_, step_write_busy (r := .data k) rfl hbusy v rest⟩, fun hidle => ?_⟩
  exact ⟨setWord s.data k v, step_write_idle (r := .data k) rfl hidle rest, extractLsb'_setWord s.data k v⟩

/-- Settles O13: bit 2 of the value clears OVR, and BUSY plays no part. -/
theorem statusWrite : Obligations.StatusWrite := by
  unfold Obligations.StatusWrite
  intro s rest v
  have hovr : (s.ovr && !v.getLsbD 2) = if v.getLsbD 2 then false else s.ovr := by
    cases v.getLsbD 2 with
    | true => exact Bool.and_false _
    | false => exact Bool.and_true _
  rw [step_write_status, ← hovr]
  rfl

end Sys2Proof.Machine
end

section
/-! The read function (20_memory.md R59, R63) and `BusError` (R53, R57, R58, R65). -/

namespace Sys2Proof.Machine

theorem memRead_offset (r : PortReg) (s : State) : memRead r.offset 4 s = readReg r s :=
  access_mapped (regAt_offset r) _ s

theorem memRead_of_toNat {off : Offset} {r : PortReg} (h : off.toNat = r.offset.toNat) (s : State) :
    memRead off 4 s = readReg r s := by
  rw [BitVec.eq_of_toNat_eq h, memRead_offset]

theorem step_read_offset (r : PortReg) (s : State) (rest : List Event) :
    step { s with inputs := .read r.offset 4 :: rest } = .next (respond (readReg r { s with inputs := rest })) := by
  rw [step_cons, applyEvent_read, memRead_offset]

/-- A read changes the count of free values and nothing else of the block. -/
theorem step_read (s : State) (off : Offset) (size : Nat) (rest : List Event) :
    step { s with inputs := .read off size :: rest } =
      .next { s with
        inputs := rest
        responses := (memRead off size { s with inputs := rest }).1 :: s.responses
        draws := (memRead off size { s with inputs := rest }).2.draws } := by
  rw [step_cons, applyEvent_read, respond]
  rcases memRead_state off size { s with inputs := rest } with h | h <;> rw [h]

/-- While BUSY = 1 a round-key window shows ANY32, and so it does for an empty entry (R63). -/
theorem windowRead_drawn {entry : Option Word} {s : State} (h : s.busy = true ∨ entry = none) :
    windowRead entry s = drawRead s := by
  unfold windowRead
  by_cases hbusy : s.busy = true
  · rw [if_pos hbusy]
  · rw [if_neg hbusy, h.resolve_left hbusy]

theorem windowRead_some {s : State} (hidle : s.busy = false) (w : Word) :
    windowRead (some w) s = (.data w, s) := by simp [windowRead, hidle]

theorem readReg_data_busy {s : State} (hbusy : s.busy = true) (k : Fin 4) : readReg (.data k) s = drawRead s := by
  simp [readReg, hbusy]

theorem readReg_data_idle {s : State} (hidle : s.busy = false) (k : Fin 4) :
    readReg (.data k) s = (.data (wordOf s.data k), s) := by
  simp [readReg, hidle]

theorem readReg_frkh_drawn {s : State} {i : Fin 16} (h : s.busy = true ∨ s.frk[i] = none) :
    readReg (.frkh i) s = drawRead s :=
  windowRead_drawn (h.imp_right fun hi => by rw [hi, Option.map_none])

/-- FRKHi shows bits 47:32 of the entry under 16 zeros (R55). -/
theorem readReg_frkh_some {s : State} {i : Fin 16} {k : Subkey} (hidle : s.busy = false) (hi : s.frk[i] = some k) :
    readReg (.frkh i) s = (.data ((0 : BitVec 16) ++ k.extractLsb' 32 16), s) := by
  rw [readReg, hi, Option.map_some, windowRead_some hidle]
  exact congrArg (fun v => (Response.data v, s)) (BitVec.setWidth_eq_append (by decide))

theorem readReg_frkl_drawn {s : State} {i : Fin 16} (h : s.busy = true ∨ s.frk[i] = none) :
    readReg (.frkl i) s = drawRead s :=
  windowRead_drawn (h.imp_right fun hi => by rw [hi, Option.map_none])

theorem readReg_frkl_some {s : State} {i : Fin 16} {k : Subkey} (hidle : s.busy = false) (hi : s.frk[i] = some k) :
    readReg (.frkl i) s = (.data (k.extractLsb' 0 32), s) := by
  rw [readReg, hi, Option.map_some, windowRead_some hidle]

theorem readReg_srkw_drawn {s : State} {j : Fin 44} (h : s.busy = true ∨ s.srk[j] = none) :
    readReg (.srkw j) s = drawRead s :=
  windowRead_drawn h

theorem readReg_srkw_some {s : State} {j : Fin 44} {w : Word} (hidle : s.busy = false) (hj : s.srk[j] = some w) :
    readReg (.srkw j) s = (.data w, s) := by
  rw [readReg, hj, windowRead_some hidle]

/-- A transaction that is not 4 bytes at an aligned, mapped offset is refused (R53, R57, R58). -/
theorem access_refused {off : Offset} {size : Nat} (h : size ≠ 4 ∨ off.toNat % 4 ≠ 0 ∨ Unmapped off.toNat)
    (act : PortReg → State → Response × State) (s : State) : access off size act s = (.busError, s) :=
  access_unmapped (h.imp_right regAt_eq_none) act s

/-- Settles O15: outside the map the access is refused; at a register's offset the answer is `readReg`. -/
theorem readFunction : Obligations.ReadFunction := by
  unfold Obligations.ReadFunction
  intro s rest off size
  refine ⟨_, _, step_read s off size rest, ?_⟩
  intro n drawn isExact
  refine ⟨fun h => ?refused, ?_⟩
  case refused =>
    rw [memRead, access_refused h]
    exact ⟨rfl, rfl⟩
  rintro rfl
  have drawnAt {r : PortReg} (hn : n = r.offset.toNat)
      (hr : readReg r { s with inputs := rest } = drawRead { s with inputs := rest }) : drawn := by
    simp only [drawn, memRead_of_toNat hn, hr, drawRead, and_self]
  have exactAt {r : PortReg} {v : Word} (hn : n = r.offset.toNat)
      (hr : readReg r { s with inputs := rest } = (.data v, { s with inputs := rest })) : isExact v := by
    simp only [isExact, memRead_of_toNat hn, hr, and_self]
  refine ⟨fun hn => exactAt (r := .cmd) hn rfl, fun hn => exactAt (r := .status) hn rfl, fun k hn => ?key,
    fun k hn => ?data, fun i hn => ?frkh, fun i hn => ?frkl, fun j hn => ?srkw⟩
  case key =>
    exact exactAt (hn.trans (offset_key_toNat k).symm) rfl
  case data =>
    rw [← offset_data_toNat] at hn
    exact ⟨fun hbusy => drawnAt hn (readReg_data_busy (by exact hbusy) k),
      fun hidle => exactAt hn (readReg_data_idle (by exact hidle) k)⟩
  case frkh =>
    rw [← offset_frkh_toNat] at hn
    exact ⟨fun h => drawnAt hn (readReg_frkh_drawn (by exact h)),
      fun k hidle hk => exactAt hn (readReg_frkh_some (by exact hidle) (by exact hk))⟩
  case frkl =>
    rw [← offset_frkl_toNat] at hn
    exact ⟨fun h => drawnAt hn (readReg_frkl_drawn (by exact h)),
      fun k hidle hk => exactAt hn (readReg_frkl_some (by exact hidle) (by exact hk))⟩
  case srkw =>
    rw [← offset_srkw_toNat] at hn
    exact ⟨fun h => drawnAt hn (readReg_srkw_drawn (by exact h)),
      fun w hidle hw => exactAt hn (readReg_srkw_some (by exact hidle) (by exact hw))⟩

/-- The round-key windows take no write (R65). -/
theorem memWrite_window {off : Offset}
    (h : (0x100 ≤ off.toNat ∧ off.toNat < 0x180) ∨ (0x200 ≤ off.toNat ∧ off.toNat < 0x2B0))
    (size : Nat) (v : Word) (s : State) : memWrite off size v s = (.busError, s) := by
  rcases access_cases off size (fun r => writeReg r v) s with hw | ⟨r, -, hr, hw⟩
  · exact hw
  · obtain rfl := eq_offset_of_regAt hr
    rw [memWrite, hw]
    cases r with
    | frkh | frkl | srkw => rfl
    | cmd | status => exact absurd h (by decide)
    | key k => rw [offset_key_toNat] at h; omega
    | data k => rw [offset_data_toNat] at h; omega

/-- Settles O16: the access check refuses the first causes, and a round-key window answers a write so by itself. -/
theorem busErrors : Obligations.BusErrors := by
  unfold Obligations.BusErrors
  intro s rest off size v n unchanged
  refine ⟨fun h => ⟨?_, ?_⟩, fun h => ?_⟩
  · rw [step_cons, applyEvent_read, memRead, access_refused h]; rfl
  · rw [step_cons, applyEvent_write, memWrite, access_refused h]; rfl
  · rw [step_cons, applyEvent_write, memWrite_window h]; rfl

/-- Settles O10: an idle block does `accept`, a busy one sets OVR, and a read shows CMDL. -/
theorem cmdRegister : Obligations.CmdRegister := by
  unfold Obligations.CmdRegister
  intro s rest v
  refine ⟨fun hidle => ?_, fun hbusy => ⟨_, step_write_busy (r := .cmd) rfl hbusy v rest⟩, ?_⟩
  · exact step_write_idle (r := .cmd) rfl hidle rest
  · exact step_read_offset .cmd s rest

end Sys2Proof.Machine
end

section
/-! The fields of a command word (30_encoding.md R80, R81, R88): a word is its three fields, and the encoder fills them. -/

namespace Sys2Proof

theorem fieldRsv_append_fieldRnd_append_fieldOp (w : Word) : fieldRsv w ++ (fieldRnd w ++ fieldOp w) = w := by
  rw [fieldRnd, fieldOp, BitVec.extractLsb'_append_extractLsb'_eq_extractLsb' (Nat.zero_add 8).symm, fieldRsv,
    BitVec.extractLsb'_append_extractLsb'_eq_extractLsb' (Nat.zero_add 12).symm, BitVec.extractLsb'_eq_self]

/-- No bit of a word lies outside its fields. -/
theorem word_eq_iff_fields_eq {v w : Word} :
    v = w ↔ fieldRsv v = fieldRsv w ∧ fieldRnd v = fieldRnd w ∧ fieldOp v = fieldOp w := by
  refine ⟨fun h => h ▸ ⟨rfl, rfl, rfl⟩, fun ⟨hrsv, hrnd, hop⟩ => ?_⟩
  rw [← fieldRsv_append_fieldRnd_append_fieldOp v, hrsv, hrnd, hop, fieldRsv_append_fieldRnd_append_fieldOp]

@[simp] theorem fieldRsv_and (v w : Word) : fieldRsv (v &&& w) = fieldRsv v &&& fieldRsv w := BitVec.extractLsb'_and
@[simp] theorem fieldRnd_and (v w : Word) : fieldRnd (v &&& w) = fieldRnd v &&& fieldRnd w := BitVec.extractLsb'_and
@[simp] theorem fieldOp_and (v w : Word) : fieldOp (v &&& w) = fieldOp v &&& fieldOp w := BitVec.extractLsb'_and

theorem encodeFields_eq_append (op : BitVec 8) (rnd : BitVec 4) :
    encodeFields op rnd = (0 : BitVec 20) ++ (rnd ++ op) :=
  BitVec.setWidth_eq_append (by decide)

@[simp] theorem fieldRsv_encodeFields (op : BitVec 8) (rnd : BitVec 4) : fieldRsv (encodeFields op rnd) = 0 := by
  rw [encodeFields_eq_append, fieldRsv, BitVec.extractLsb'_append_eq_left]

@[simp] theorem fieldRnd_encodeFields (op : BitVec 8) (rnd : BitVec 4) : fieldRnd (encodeFields op rnd) = rnd := by
  rw [encodeFields_eq_append, fieldRnd, BitVec.extractLsb'_append_eq_of_add_le (by decide),
    BitVec.extractLsb'_append_eq_left]

@[simp] theorem fieldOp_encodeFields (op : BitVec 8) (rnd : BitVec 4) : fieldOp (encodeFields op rnd) = op := by
  rw [encodeFields_eq_append, fieldOp, BitVec.extractLsb'_append_eq_of_add_le (by decide),
    BitVec.extractLsb'_append_eq_right]

/-! ## A command, its operation and its operand -/

@[simp] theorem opcode_ofOpcode (op : Opcode) (rnd : BitVec 4) : (Instr.ofOpcode op rnd).opcode = op := by
  cases op <;> rfl

theorem round_ofOpcode (op : Opcode) (rnd : BitVec 4) :
    (Instr.ofOpcode op rnd).round = if op.takesRound then rnd else 0 := by
  cases op <;> rfl

@[simp] theorem ofOpcode_opcode_round (i : Instr) : Instr.ofOpcode i.opcode i.round = i := by
  cases i <;> rfl

@[simp] theorem fieldRnd_encode (i : Instr) : fieldRnd (encode i) = i.round := fieldRnd_encodeFields _ _

theorem encode_ofOpcode (op : Opcode) (rnd : BitVec 4) :
    encode (Instr.ofOpcode op rnd) = encodeFields op.value (if op.takesRound then rnd else 0) := by
  rw [encode, opcode_ofOpcode, round_ofOpcode]

/-- Every command is well formed, and its word matches the row of its own operation. -/
theorem encodesOwnRow (i : Instr) : Laws.EncodesOwnRow.Statement i := by
  cases i with
  | nop => exact Laws.EncodesOwnRow.nop
  | fKs => exact Laws.EncodesOwnRow.fKs
  | fEnc => exact Laws.EncodesOwnRow.fEnc
  | fDec => exact Laws.EncodesOwnRow.fDec
  | fIp => exact Laws.EncodesOwnRow.fIp
  | fFp => exact Laws.EncodesOwnRow.fFp
  | fRnd rnd => exact Laws.EncodesOwnRow.fRnd rnd
  | fSwap => exact Laws.EncodesOwnRow.fSwap
  | sKx => exact Laws.EncodesOwnRow.sKx
  | sEnc => exact Laws.EncodesOwnRow.sEnc
  | sDec => exact Laws.EncodesOwnRow.sDec
  | sSub => exact Laws.EncodesOwnRow.sSub
  | sIsub => exact Laws.EncodesOwnRow.sIsub
  | sShr => exact Laws.EncodesOwnRow.sShr
  | sIshr => exact Laws.EncodesOwnRow.sIshr
  | sMix => exact Laws.EncodesOwnRow.sMix
  | sImix => exact Laws.EncodesOwnRow.sImix
  | sArk rnd => exact Laws.EncodesOwnRow.sArk rnd

end Sys2Proof
end

section
/-! The opcode table and the decoder (30_encoding.md R82, R84, R86, R88, R115): what it means for a word to match a row, in
terms of its fields, and the decoder as the inverse of the encoder. -/

namespace Sys2Proof

/-! ## The rows -/

/-- What a row fixes, field by field: RSV and OP in full, and RND unless the operation takes a round operand. -/
theorem fields_of_row : ∀ r ∈ opcodeTable,
    fieldRsv r.mask = BitVec.allOnes 20 ∧ fieldOp r.mask = BitVec.allOnes 8 ∧
    fieldRnd r.mask = (if r.op.takesRound then 0 else BitVec.allOnes 4) ∧
    r.pattern = encodeFields r.op.value 0 := by decide

/-- A word matches a row when it is the encoding of the row's command with the word's own RND. -/
theorem matches_row_iff_eq_encode {r : OpcodeRow} (hr : r ∈ opcodeTable) (w : Word) :
    w &&& r.mask = r.pattern ↔ w = encode (Instr.ofOpcode r.op (fieldRnd w)) := by
  obtain ⟨hrsv, hop, hrnd, hpattern⟩ := fields_of_row r hr
  rw [word_eq_iff_fields_eq, word_eq_iff_fields_eq, encode_ofOpcode]
  cases h : r.op.takesRound <;> simp [hrsv, hop, hrnd, hpattern, h, -BitVec.reduceAllOnes]

/-- The same in the words of rule R86, whose clauses are the three ways to fail it. -/
theorem matches_row_iff_fields {r : OpcodeRow} (hr : r ∈ opcodeTable) (w : Word) :
    w &&& r.mask = r.pattern ↔
      fieldRsv w = 0 ∧ fieldOp w = r.op.value ∧ (r.op.takesRound = true ∨ fieldRnd w = 0) := by
  rw [matches_row_iff_eq_encode hr, word_eq_iff_fields_eq, encode_ofOpcode]
  cases h : r.op.takesRound <;> simp [and_comm]

/-- The operation codes of the rows are distinct. -/
theorem row_eq_of_value_eq : ∀ r ∈ opcodeTable, ∀ r' ∈ opcodeTable, r.op.value = r'.op.value → r = r' := by decide

theorem row_unique {w : Word} {r r' : OpcodeRow} (hr : r ∈ opcodeTable) (hr' : r' ∈ opcodeTable)
    (h : w &&& r.mask = r.pattern) (h' : w &&& r'.mask = r'.pattern) : r = r' := by
  obtain ⟨-, hop, -⟩ := (matches_row_iff_fields hr w).1 h
  obtain ⟨-, hop', -⟩ := (matches_row_iff_fields hr' w).1 h'
  exact row_eq_of_value_eq r hr r' hr' (hop.symm.trans hop')

/-! ## The decoder -/

theorem selects_iff {r : OpcodeRow} {w : Word} : r.selects w = true ↔ w &&& r.mask = r.pattern := beq_iff_eq

/-- The decoder answers with the row it finds, which the table lets be only one (R84). -/
theorem decode_eq_ok_iff_row {w : Word} {i : Instr} : decode w = .ok i ↔
    ∃ r ∈ opcodeTable, w &&& r.mask = r.pattern ∧ i = Instr.ofOpcode r.op (fieldRnd w) := by
  unfold decode
  cases hfind : opcodeTable.find? (fun r => r.selects w) with
  | none =>
    have hnone : ∀ r ∈ opcodeTable, w &&& r.mask ≠ r.pattern := by
      simpa [selects_iff] using List.find?_eq_none.1 hfind
    simp only [reduceCtorEq, false_iff]
    rintro ⟨r, hr, hmatch, -⟩
    exact hnone r hr hmatch
  | some r =>
    have hr : r ∈ opcodeTable := List.mem_of_find?_eq_some hfind
    have hmatch : w &&& r.mask = r.pattern := selects_iff.1 (List.find?_some (p := (OpcodeRow.selects · w)) hfind)
    constructor
    · intro h
      injection h with h
      exact ⟨r, hr, hmatch, h.symm⟩
    · rintro ⟨r', hr', hmatch', rfl⟩
      rw [row_unique hr hr' hmatch hmatch']

/-- A word decodes to a command exactly when it is the command's encoding. -/
theorem decode_eq_ok_iff {w : Word} {i : Instr} : decode w = .ok i ↔ w = encode i := by
  rw [decode_eq_ok_iff_row]
  constructor
  · rintro ⟨r, hr, hmatch, rfl⟩
    exact (matches_row_iff_eq_encode hr w).1 hmatch
  · rintro rfl
    obtain ⟨-, r, hr, hop, hmatch⟩ := encodesOwnRow i
    exact ⟨r, hr, hmatch, by rw [hop, fieldRnd_encode, ofOpcode_opcode_round]⟩

@[simp] theorem decode_encode (i : Instr) : decode (encode i) = .ok i := decode_eq_ok_iff.2 rfl

theorem exists_decode_eq_error_iff {w : Word} : (∃ e, decode w = .error e) ↔ ¬ ∃ i, decode w = .ok i := by
  cases decode w <;> simp

theorem exists_decode_eq_ok_iff_row {w : Word} :
    (∃ i, decode w = .ok i) ↔ ∃ r ∈ opcodeTable, w &&& r.mask = r.pattern := by
  simp only [decode_eq_ok_iff_row]
  exact ⟨fun ⟨_, r, hr, hmatch, _⟩ => ⟨r, hr, hmatch⟩, fun ⟨r, hr, hmatch⟩ => ⟨_, r, hr, hmatch, rfl⟩⟩

/-! ## The legal words (R115) -/

theorem mem_legalOps_iff {op : BitVec 8} : op ∈ Machine.legalOps ↔ ∃ r ∈ opcodeTable, r.op.value = op := by
  have htable : Machine.legalOps = opcodeTable.map (fun r => r.op.value) := rfl
  rw [htable, List.mem_map]

theorem takesRound_iff_value (op : Opcode) : op.takesRound = true ↔ op.value = 0x15 ∨ op.value = 0x29 := by
  cases op <;> decide

/-- The decoder accepts the words that rule R115 calls legal. -/
theorem exists_decode_eq_ok_iff_legal {w : Word} : (∃ i, decode w = .ok i) ↔ Machine.Legal w := by
  have hlegal : Machine.Legal w ↔ fieldRsv w = 0 ∧ (∃ r ∈ opcodeTable, r.op.value = fieldOp w) ∧
      (fieldRnd w = 0 ∨ fieldOp w = 0x15 ∨ fieldOp w = 0x29) := by
    rw [← mem_legalOps_iff]; rfl
  rw [exists_decode_eq_ok_iff_row, hlegal]
  constructor
  · rintro ⟨r, hr, hmatch⟩
    obtain ⟨hrsv, hop, hrnd⟩ := (matches_row_iff_fields hr w).1 hmatch
    rw [takesRound_iff_value, ← hop] at hrnd
    exact ⟨hrsv, ⟨r, hr, hop.symm⟩, hrnd.symm⟩
  · rintro ⟨hrsv, ⟨r, hr, hop⟩, hrnd⟩
    rw [← hop, ← takesRound_iff_value] at hrnd
    exact ⟨r, hr, (matches_row_iff_fields hr w).2 ⟨hrsv, hop.symm, hrnd.symm⟩⟩

/-! ## The statements -/

/-- Settles O1: the decoder inverts the encoder both ways, and every command is well formed. -/
theorem decodeAndEncodeAgree : Obligations.DecodeAndEncodeAgree := by
  unfold Obligations.DecodeAndEncodeAgree
  refine ⟨fun i _ => decode_encode i, fun w i h => ⟨?_, (decode_eq_ok_iff.1 h).symm⟩⟩
  obtain ⟨hwf, -⟩ := encodesOwnRow i
  exact hwf

/-- Settles O2: OP tells the rows apart, so the row the decoder finds is the only one that matches. -/
theorem atMostOneRowSelected : Obligations.AtMostOneRowSelected := by
  unfold Obligations.AtMostOneRowSelected
  exact ⟨fun _ _ _ hr hr' h h' => row_unique hr hr' h h', fun _ _ => decode_eq_ok_iff_row⟩

/-- Settles O3: an illegal word is one that is not `Legal`, and its completion is `completeCommand_illegal`. -/
theorem illegalWordsExactly : Obligations.IllegalWordsExactly := by
  unfold Obligations.IllegalWordsExactly
  refine ⟨fun w => ?clauses, fun w => ?rows, fun s rest hbusy ⟨e, he⟩ => ?completion⟩
  case clauses =>
    rw [exists_decode_eq_error_iff, exists_decode_eq_ok_iff_legal, Machine.Legal]
    tauto
  case rows =>
    rw [exists_decode_eq_error_iff, exists_decode_eq_ok_iff_row]
    push Not
    rfl
  case completion =>
    rw [Machine.step_cons, Machine.applyEvent_core, Machine.coreTurn_busy (by exact hbusy),
      Machine.completeCommand_illegal (by exact he)]
    rfl

/-- Settles O4: the decoder evaluated on each of the eleven words. -/
theorem specWordsDecode : Obligations.SpecWordsDecode := by
  unfold Obligations.SpecWordsDecode
  decide

end Sys2Proof
end

section
/-! The assembler (30_encoding.md R89). -/

namespace Sys2Proof

theorem assemble_eq_none_iff {c : SourceCommand} : assemble c = none ↔ ¬ c.wellFormed = true := by
  simp [assemble]

theorem eq_of_assemble_eq_some {c : SourceCommand} {w : Word} (h : assemble c = some w) :
    c.wellFormed = true ∧ w = encodeFields c.op.value (BitVec.ofNat 4 (c.operand.getD 0)) := by
  unfold assemble at h
  split at h
  · exact ⟨‹_›, (Option.some.inj h).symm⟩
  · cases h

theorem takesRound_iff (op : Opcode) : op.takesRound = true ↔ op = .fRnd ∨ op = .sArk := by
  cases op <;> decide

/-- A source command without an operand is well formed; with one, only F_RND up to 15 and S_ARK up to 10 are. -/
theorem sourceCommand_wellFormed_iff (c : SourceCommand) : c.wellFormed = true ↔
    ∀ r, c.operand = some r → (c.op = .fRnd ∧ r ≤ 15) ∨ (c.op = .sArk ∧ r ≤ 10) := by
  obtain ⟨op, operand⟩ := c
  cases operand with
  | none => simp [SourceCommand.wellFormed]
  | some r => cases op <;> simp [SourceCommand.wellFormed, Opcode.takesRound]

theorem operand_eq_zero_of_not_takesRound {c : SourceCommand} (hwf : c.wellFormed = true)
    (h : ¬ c.op.takesRound = true) : c.operand.getD 0 = 0 := by
  rw [takesRound_iff] at h
  cases hr : c.operand with
  | none => rfl
  | some r => exact absurd (((sourceCommand_wellFormed_iff c).1 hwf r hr).imp And.left And.left) h

theorem operand_lt_of_wellFormed {c : SourceCommand} (hwf : c.wellFormed = true) : c.operand.getD 0 < 16 := by
  cases hr : c.operand with
  | none => decide
  | some r =>
    have hle := (sourceCommand_wellFormed_iff c).1 hwf r hr
    rw [Option.getD_some]
    omega

/-- The operand of a well-formed source command is the round operand of its command. -/
theorem round_of_wellFormed {c : SourceCommand} (hwf : c.wellFormed = true) :
    (Instr.ofOpcode c.op (BitVec.ofNat 4 (c.operand.getD 0))).round = BitVec.ofNat 4 (c.operand.getD 0) := by
  rw [round_ofOpcode]
  split
  · rfl
  · rw [operand_eq_zero_of_not_takesRound hwf ‹_›]; rfl

/-- Settles O5: refusal is `wellFormed` failing, and an accepted command is encoded as the command it writes. -/
theorem assemblerAcceptsAndRefuses : Obligations.AssemblerAcceptsAndRefuses := by
  unfold Obligations.AssemblerAcceptsAndRefuses
  refine fun c => ⟨?refused, fun w hw => ?accepted⟩
  case refused =>
    rw [assemble_eq_none_iff, sourceCommand_wellFormed_iff]
    push Not
    refine exists_congr fun r => and_congr_right fun _ => ?_
    cases c.op <;> simp
  case accepted =>
    obtain ⟨hwf, rfl⟩ := eq_of_assemble_eq_some hw
    refine ⟨.ofOpcode c.op (BitVec.ofNat 4 (c.operand.getD 0)), decode_eq_ok_iff.2 ?_, opcode_ofOpcode _ _, ?_⟩
    · rw [encode, opcode_ofOpcode, round_of_wellFormed hwf]
    · rw [round_of_wellFormed hwf, BitVec.toNat_ofNat, Nat.mod_eq_of_lt (operand_lt_of_wellFormed hwf)]

end Sys2Proof
end

section
/-! S_ARK above 10 (30_encoding.md R87, R249, R303). -/

namespace Sys2Proof.Machine

theorem sArk_word_eq_encode (rnd : BitVec 4) : 0x00000029 ||| (rnd.setWidth 32 <<< 8) = encode (.sArk rnd) := by
  revert rnd; decide

theorem fRnd_word_eq_encode (rnd : BitVec 4) : 0x00000015 ||| (rnd.setWidth 32 <<< 8) = encode (.fRnd rnd) := by
  revert rnd; decide

theorem exec_sArk_above (s : State) {rnd : BitVec 4} (h : 10 < rnd.toNat) :
    exec (.sArk rnd) s = .next (finish .badRound s) := by
  rw [exec, execSArk, if_pos h, fails]

theorem exec_sArk_upTo (s : State) {rnd : BitVec 4} (h : rnd.toNat ≤ 10) :
    exec (.sArk rnd) s = withSpnSchedule (addRoundKeyEffect rnd.toNat) s := by
  rw [exec, execSArk, if_neg (by omega)]

/-- Settles O49: only the guard of S_ARK gives BAD_ROUND; a schedule check gives OK or NO_SCHEDULE. -/
theorem badRound : Obligations.BadRound := by
  unfold Obligations.BadRound
  refine ⟨fun rnd => ⟨?_, ?_⟩, fun s rnd h => exec_sArk_above s h, fun s t rnd h ht => ?sArk, fun s t rnd ht => ?fRnd⟩
  · rw [sArk_word_eq_encode, decode_encode]
  · rw [fRnd_word_eq_encode, decode_encode]
  case sArk =>
    rw [exec_sArk_upTo s h] at ht
    obtain ⟨-, rfl⟩ | ⟨-, rfl⟩ := withSpnSchedule_cases ht <;> simp
  case fRnd =>
    obtain ⟨-, rfl⟩ | ⟨-, rfl⟩ := withFeistelSchedule_cases (by exact ht) <;> simp

end Sys2Proof.Machine
end

section
/-! The host's `bnz` statement and the loop of `poll` (30_encoding.md R91, R92). -/

namespace Sys2Proof.Machine

theorem hostTurn_bnz {prog : List HostStmt} {h : Hosted} {r : HostReg} {mask : Word} {l : HostLabel}
    (hstmt : prog[h.pc]? = some (.bnz r mask l)) :
    hostTurn prog h = (branchTarget prog h.pc (memRead r.offset 4 h.block).1 mask l).map
      fun pc => ⟨pc, respond (memRead r.offset 4 h.block)⟩ := by
  simp only [hostTurn, hstmt]

theorem and_one_ne_zero_iff (v : Word) : v &&& 0x1 ≠ 0 ↔ v.getLsbD 0 = true := by
  rw [show v &&& 0x1 = _ from BitVec.and_one_eq_setWidth_ofBool_getLsbD]
  cases v.getLsbD 0 <;> decide

/-- Bit 0 of STATUS is BUSY (R27). -/
theorem statusWord_and_one_ne_zero_iff (s : State) : statusWord s &&& 0x1 ≠ 0 ↔ s.busy = true := by
  rw [and_one_ne_zero_iff, getLsbD_statusWord, if_pos rfl]

theorem branchTarget_status (prog : List HostStmt) (pc : Nat) (s : State) (l : HostLabel) :
    branchTarget prog pc (.data (statusWord s)) 0x1 l = if s.busy then labelIndex prog l else some (pc + 1) := by
  simp only [branchTarget, statusWord_and_one_ne_zero_iff]

/-- Settles O57: the statement reads STATUS, whose bit 0 decides the branch. -/
theorem pollLoopsWhileBusy : Obligations.PollLoopsWhileBusy := by
  unfold Obligations.PollLoopsWhileBusy
  intro prog h l at_ hstmt hlabel
  have hread : memRead (HostReg.reg .status).offset 4 h.block = (.data (statusWord h.block), h.block) :=
    memRead_offset .status h.block
  rw [hostTurn_bnz hstmt, hread, branchTarget_status, hlabel]
  cases h.block.busy <;> rfl

end Sys2Proof.Machine
end

section
/-! How a command completes (40_command_lifecycle.md R113 to R119): the code of each legal word by the checks of Execute,
and no effect where the code is not OK. -/

namespace Sys2Proof.Machine

/-- The checks that Execute makes of a legal word, in their order (R114, R119). -/
def resultCode (op : BitVec 8) (rnd : BitVec 4) (s : State) : ErrCode :=
  if op = 0x29 ∧ 10 < rnd.toNat then .badRound
  else if ((op = 0x11 ∨ op = 0x12 ∨ op = 0x15) ∧ s.fkv = false) ∨
      ((op = 0x21 ∨ op = 0x22 ∨ op = 0x29) ∧ s.skv = false) then .noSchedule
  else .ok

/-- `r` completes a command with code `c` from `s`, and has no effect where `c` is not OK (R113, R117). -/
def CompletesWith (c : ErrCode) (s : State) (r : Result) : Prop :=
  ∃ u, r = .next (finish c u) ∧ (c ≠ .ok → u = s)

/-! ## The code of each shape of completion -/

theorem finish_ok_completesWith (s u : State) : CompletesWith .ok s (.next (finish .ok u)) := ⟨u, rfl, absurd rfl⟩

theorem finish_completesWith (c : ErrCode) (s : State) : CompletesWith c s (.next (finish c s)) :=
  ⟨s, rfl, fun _ => rfl⟩

theorem withFeistelSchedule_completesWith (effect : State → State) (s : State) :
    CompletesWith (if s.fkv then .ok else .noSchedule) s (withFeistelSchedule effect s) := by
  cases hv : s.fkv
  · rw [withFeistelSchedule_invalid hv]; exact finish_completesWith .noSchedule s
  · rw [withFeistelSchedule_valid hv]; exact finish_ok_completesWith s _

theorem withSpnSchedule_completesWith (effect : State → State) (s : State) :
    CompletesWith (if s.skv then .ok else .noSchedule) s (withSpnSchedule effect s) := by
  cases hv : s.skv
  · rw [withSpnSchedule_invalid hv]; exact finish_completesWith .noSchedule s
  · rw [withSpnSchedule_valid hv]; exact finish_ok_completesWith s _

theorem resultCode_unkeyed {op : BitVec 8} (h : op ∉ ([0x11, 0x12, 0x15, 0x21, 0x22, 0x29] : List (BitVec 8)))
    (rnd : BitVec 4) (s : State) : resultCode op rnd s = .ok := by
  simp only [List.mem_cons, List.not_mem_nil, or_false, not_or] at h
  simp only [resultCode, h, false_and, or_false, if_false]

theorem resultCode_feistelKeyed {op : BitVec 8} (h : op = 0x11 ∨ op = 0x12 ∨ op = 0x15) (rnd : BitVec 4) (s : State) :
    resultCode op rnd s = if s.fkv then .ok else .noSchedule := by
  rcases h with rfl | rfl | rfl <;> cases hv : s.fkv <;> simp [resultCode, hv]

theorem resultCode_spnKeyed {op : BitVec 8} (h : op = 0x21 ∨ op = 0x22 ∨ op = 0x29) {rnd : BitVec 4}
    (hrnd : rnd.toNat ≤ 10) (s : State) : resultCode op rnd s = if s.skv then .ok else .noSchedule := by
  have hround : ¬ 10 < rnd.toNat := by omega
  rcases h with rfl | rfl | rfl <;> cases hv : s.skv <;> simp [resultCode, hv, hround]

/-! ## Every completion -/

/-- Every command completes, with the code that the checks of R114 give its word. -/
theorem exec_completesWith (i : Instr) (s : State) :
    CompletesWith (resultCode i.opcode.value i.round s) s (exec i s) := by
  cases i with
  | nop | fKs | fIp | fFp | fSwap | sKx | sSub | sIsub | sShr | sIshr | sMix | sImix =>
    rw [resultCode_unkeyed (by decide)]
    exact finish_ok_completesWith s _
  | fEnc | fDec | fRnd =>
    rw [resultCode_feistelKeyed (by simp [Instr.opcode, Opcode.value])]
    exact withFeistelSchedule_completesWith _ s
  | sEnc | sDec =>
    rw [resultCode_spnKeyed (by simp [Instr.opcode, Opcode.value]) (by simp [Instr.round])]
    exact withSpnSchedule_completesWith _ s
  | sArk rnd =>
    by_cases hrnd : 10 < rnd.toNat
    · rw [exec_sArk_above s hrnd, resultCode, if_pos ⟨rfl, hrnd⟩]
      exact finish_completesWith .badRound s
    · rw [exec_sArk_upTo s (Nat.not_lt.1 hrnd), resultCode_spnKeyed (by simp [Instr.opcode, Opcode.value])
        (by exact Nat.not_lt.1 hrnd)]
      exact withSpnSchedule_completesWith _ s

/-- A legal word completes with the code of its own fields. -/
theorem completeCommand_legal_completesWith {s : State} (h : Legal s.cmdl) :
    CompletesWith (resultCode (fieldOp s.cmdl) (fieldRnd s.cmdl) s) s (completeCommand s) := by
  obtain ⟨i, hi⟩ := exists_decode_eq_ok_iff_legal.2 h
  rw [completeCommand_legal hi, decode_eq_ok_iff.1 hi, fieldRnd_encode, encode, fieldOp_encodeFields]
  exact exec_completesWith i s

theorem completeCommand_illegal_completesWith {s : State} (h : ¬ Legal s.cmdl) :
    CompletesWith .illegalCmd s (completeCommand s) := by
  obtain ⟨e, he⟩ := exists_decode_eq_error_iff.2 (mt exists_decode_eq_ok_iff_legal.1 h)
  rw [completeCommand_illegal he]
  exact finish_completesWith .illegalCmd s

theorem completeCommand_ovr {s t : State} (h : completeCommand s = .next t) : t.ovr = s.ovr := by
  cases hd : decode s.cmdl with
  | ok i => exact exec_ovr (completeCommand_legal hd ▸ h)
  | error e => exact fails_cases (completeCommand_illegal hd ▸ h) ▸ rfl

theorem exists_completeCommand_completesWith (s : State) : ∃ c, CompletesWith c s (completeCommand s) ∧
    (¬ Legal s.cmdl → c = .illegalCmd) ∧ (Legal s.cmdl → c = resultCode (fieldOp s.cmdl) (fieldRnd s.cmdl) s) := by
  by_cases hlegal : Legal s.cmdl
  · exact ⟨_, completeCommand_legal_completesWith hlegal, absurd hlegal, fun _ => rfl⟩
  · exact ⟨_, completeCommand_illegal_completesWith hlegal, fun _ => rfl, (absurd · hlegal)⟩

theorem step_core_busy {s : State} (h : s.busy = true) (rest : List Event) :
    step { s with inputs := .core :: rest } = completeCommand { s with inputs := rest } := by
  rw [step_cons, applyEvent_core, coreTurn_busy (by exact h)]

/-- Settles O9: the completion has the code of `resultCode`, whose checks stand in the order of R114. -/
theorem resultCodeOfEveryWord : Obligations.ResultCodeOfEveryWord := by
  unfold Obligations.ResultCodeOfEveryWord
  intro s rest
  refine ⟨fun hidle => ?idle, fun hbusy => ?busy⟩
  case idle => rw [step_cons, applyEvent_core, coreTurn_idle (by exact hidle)]
  case busy =>
    rw [step_core_busy hbusy]
    obtain ⟨c, ⟨u, hnext, hframe⟩, hillegal, hlegal⟩ := exists_completeCommand_completesWith { s with inputs := rest }
    have hovr := completeCommand_ovr hnext
    refine ⟨finish c u, hnext, rfl, rfl, hovr, fun hc => ?frame, hillegal, fun h => ?legal⟩
    case frame => rw [hframe hc]; rfl
    case legal =>
      rw [finish_err, hlegal h]
      refine ⟨fun hbad => ?_, fun hbad hsched => ?_, fun hbad hsched => ?_⟩
      · exact if_pos hbad
      · exact (if_neg hbad).trans (if_pos hsched)
      · exact (if_neg hbad).trans (if_neg hsched)

/-- Settles O6: the core's turn on a busy block completes the command that CMDL decodes to. -/
theorem stepRunsTheDecodedCommand : Obligations.StepRunsTheDecodedCommand := by
  unfold Obligations.StepRunsTheDecodedCommand
  intro s i hbusy hcmd
  refine ⟨fun hin => ?_, fun rest => ?_⟩
  · rw [step_idle hin, coreTurn_busy hbusy, completeCommand_legal hcmd]
  · rw [step_core_busy hbusy, completeCommand_legal (by exact hcmd)]

/-- The word placed for a command is its encoding: nothing of its 32 bits is cut off. -/
theorem withFetchWord_encode (s : State) (i : Instr) :
    s.withFetchWord 32 (encode i).toNat = placeCommand (encode i) s := by
  rw [State.withFetchWord, Nat.mod_eq_of_lt (encode i).isLt, BitVec.ofNat_toNat, BitVec.setWidth_eq]

/-- Settles O7: acceptance makes the block busy with the command's own encoding in CMDL. -/
theorem placedCommandRunsNext : Obligations.PlacedCommandRunsNext := by
  unfold Obligations.PlacedCommandRunsNext
  intro s i
  rw [withFetchWord_encode, placeCommand, step_core_busy (accept_busy _ s), completeCommand_legal (decode_encode i)]
  rfl

/-- Settles O29: NOP completes with OK and has no effect of its own. -/
theorem nopCompletes : Obligations.NopCompletes := by
  unfold Obligations.NopCompletes
  exact fun s => rfl

end Sys2Proof.Machine
end

section
/-! Runs of several steps (40_command_lifecycle.md R120): each step takes one input, and a command in flight that meets no
reset is completed by the core's turn. -/

namespace Sys2Proof.Machine

theorem stepMany_one (s : State) : stepMany 1 s = step s := by
  cases h : step s <;> simp [stepMany, h]

theorem stepMany_succ_of_step {s t : State} (h : step s = .next t) (n : Nat) : stepMany (n + 1) s = stepMany n t := by
  simp only [stepMany, h]

theorem stepMany_add {m : Nat} : ∀ {s t : State}, stepMany m s = .next t → ∀ n, stepMany (m + n) s = stepMany n t := by
  induction m with
  | zero => intro s t h n; cases h; rw [Nat.zero_add]
  | succ m ih =>
    intro s t h n
    cases hstep : step s with
    | next u =>
      rw [Nat.succ_add, stepMany_succ_of_step hstep]
      exact ih (stepMany_succ_of_step hstep m ▸ h) n
    | fault | refused => simp [stepMany, hstep] at h

/-! ## One step -/

theorem exists_coreTurn (s : State) : ∃ t, coreTurn s = .next t := by
  cases hb : s.busy with
  | false => exact ⟨s, coreTurn_idle hb⟩
  | true =>
    obtain ⟨c, ⟨u, h, -⟩, -⟩ := exists_completeCommand_completesWith s
    exact ⟨finish c u, by rw [coreTurn_busy hb, h]⟩

theorem exists_step (s : State) : ∃ t, step s = .next t := by
  cases hs : s.inputs with
  | nil => rw [step_idle hs]; exact exists_coreTurn s
  | cons e rest =>
    rw [step_input hs]
    cases e with
    | core => exact exists_coreTurn _
    | read | write | reset => exact ⟨_, rfl⟩

theorem exec_inputs {i : Instr} {s t : State} (h : exec i s = .next t) : t.inputs = s.inputs := by
  obtain ⟨c, u, rfl, ⟨_, _, _, rfl⟩ | ⟨_, rfl⟩ | ⟨_, rfl⟩⟩ := exec_cases h <;> rfl

theorem memRead_inputs (off : Offset) (size : Nat) (s : State) : (memRead off size s).2.inputs = s.inputs := by
  rcases memRead_state off size s with h | h <;> rw [h]

theorem memWrite_inputs (off : Offset) (size : Nat) (v : Word) (s : State) :
    (memWrite off size v s).2.inputs = s.inputs := by
  rcases memWrite_state off size v s with h | h | ⟨-, h⟩ | ⟨-, h | ⟨k, h⟩ | ⟨k, h⟩⟩ <;> rw [h] <;> rfl

/-- A step takes the head of the inputs and adds none. -/
theorem step_inputs {s t : State} (h : step s = .next t) : t.inputs = s.inputs.tail := by
  rcases step_cases h with ⟨-, -, rfl⟩ | ⟨-, -, i, -, hexec⟩ | ⟨-, -, -, rfl⟩ |
    ⟨off, size, rest, hin, rfl⟩ | ⟨off, size, v, rest, hin, rfl⟩ | ⟨rest, hin, rfl⟩
  · rfl
  · exact exec_inputs hexec
  · rfl
  · rw [respond_inputs, memRead_inputs, hin, List.tail_cons]
  · rw [respond_inputs, memWrite_inputs, hin, List.tail_cons]
  · rw [applyReset_inputs, hin, List.tail_cons]

/-- The core's turn leaves the block idle: it completes the command in flight, or there is none. -/
theorem coreTurn_busy_eq_false {s t : State} (h : coreTurn s = .next t) : t.busy = false := by
  cases hb : s.busy with
  | false =>
    rw [coreTurn_idle hb] at h
    cases h
    exact hb
  | true =>
    obtain ⟨c, ⟨u, hu, -⟩, -⟩ := exists_completeCommand_completesWith s
    rw [coreTurn_busy hb, hu] at h
    cases h
    rfl

/-! ## A command in flight completes -/

/-- A command is in flight, or the last one has completed (R28, R29). -/
def InFlightOrDone (s : State) : Prop := s.busy = true ∨ s.done = true

theorem StepEffect.inFlightOrDone {s t : State} (h : StepEffect s t) (hs : InFlightOrDone s) :
    (∃ rest, s.inputs = .reset :: rest) ∨ InFlightOrDone t := by
  cases h with
  | wasReset hin => exact .inl ⟨_, hin⟩
  | completed | feistelScheduled | spnScheduled => exact .inr (.inr rfl)
  | accepted => exact .inr (.inl rfl)
  | unchanged | statusWritten | overran | keyWritten | dataWritten => exact .inr hs

theorem step_inFlightOrDone {s t : State} (h : step s = .next t) (hreset : Event.reset ∉ s.inputs)
    (hs : InFlightOrDone s) : InFlightOrDone t := by
  refine ((step_effect h).inFlightOrDone hs).resolve_left ?_
  rintro ⟨rest, hin⟩
  simp [hin] at hreset

/-- A number of steps uses up as many inputs, and no reset among them takes a command's completion away. -/
theorem exists_stepMany (n : Nat) : ∀ s : State, ∃ t, stepMany n s = .next t ∧ t.inputs = s.inputs.drop n ∧
    (Event.reset ∉ s.inputs → InFlightOrDone s → InFlightOrDone t) := by
  induction n with
  | zero => exact fun s => ⟨s, rfl, rfl, fun _ hs => hs⟩
  | succ n ih =>
    intro s
    obtain ⟨u, hstep⟩ := exists_step s
    obtain ⟨t, hmany, hin, hkept⟩ := ih u
    have hu : u.inputs = s.inputs.tail := step_inputs hstep
    refine ⟨t, by rw [stepMany_succ_of_step hstep, hmany], by rw [hin, hu, List.drop_tail], fun hreset hs => ?_⟩
    exact hkept (hu ▸ mt List.mem_of_mem_tail hreset) (step_inFlightOrDone hstep hreset hs)

/-- Settles O28: the inputs are used up one by one, and the step after them is the core's turn. -/
theorem everyCommandCompletes : Obligations.EveryCommandCompletes := by
  unfold Obligations.EveryCommandCompletes
  intro s
  obtain ⟨u, hmany, hin, hkept⟩ := exists_stepMany s.inputs.length s
  rw [List.drop_length] at hin
  obtain ⟨t, hstep⟩ := exists_step u
  have hidle : t.busy = false := coreTurn_busy_eq_false (step_idle hin ▸ hstep)
  refine ⟨t, ?_, by rw [step_inputs hstep, hin, List.tail_nil], hidle, fun hbusy hreset => ?_⟩
  · rw [stepMany_add hmany, stepMany_one, hstep]
  · have ht : InFlightOrDone t := step_inFlightOrDone hstep (by simp [hin]) (hkept hreset (.inl hbusy))
    exact ht.resolve_left (by simp [hidle])

end Sys2Proof.Machine
end

section
/-! Host transactions while a command runs (40_command_lifecycle.md R112): they reach OVR, the responses and the count of
free values, and the completion depends on none of these. -/

namespace Sys2Proof.Machine

/-- Equal but for OVR, the responses and the count of free values: what a host transaction on a busy block can reach. -/
def SameBlock (t u : State) : Prop := ∃ o rs d, t = { u with ovr := o, responses := rs, draws := d }

/-- The same of two answers. -/
def SameAnswer (r r' : Result) : Prop := ∃ t u, r = .next t ∧ r' = .next u ∧ SameBlock t u

namespace SameBlock

variable {t u v : State}

theorem refl (u : State) : SameBlock u u := ⟨_, _, _, rfl⟩

theorem trans (h : SameBlock t u) (h' : SameBlock u v) : SameBlock t v := by
  obtain ⟨o, rs, d, rfl⟩ := h
  obtain ⟨_, _, _, rfl⟩ := h'
  exact ⟨o, rs, d, rfl⟩

theorem eq_update (h : SameBlock t u) : t = { u with ovr := t.ovr, responses := t.responses, draws := t.draws } := by
  obtain ⟨o, rs, d, rfl⟩ := h
  rfl

theorem setInputs (h : SameBlock t u) (is : List Event) : SameBlock { t with inputs := is } { u with inputs := is } := by
  obtain ⟨o, rs, d, rfl⟩ := h
  exact ⟨o, rs, d, rfl⟩

theorem inputs_eq (h : SameBlock t u) : t.inputs = u.inputs := by obtain ⟨_, _, _, rfl⟩ := h; rfl
theorem busy_eq (h : SameBlock t u) : t.busy = u.busy := by obtain ⟨_, _, _, rfl⟩ := h; rfl
theorem cmdl_eq (h : SameBlock t u) : t.cmdl = u.cmdl := by obtain ⟨_, _, _, rfl⟩ := h; rfl
theorem fkv_eq (h : SameBlock t u) : t.fkv = u.fkv := by obtain ⟨_, _, _, rfl⟩ := h; rfl
theorem skv_eq (h : SameBlock t u) : t.skv = u.skv := by obtain ⟨_, _, _, rfl⟩ := h; rfl
theorem data_eq (h : SameBlock t u) : t.data = u.data := by obtain ⟨_, _, _, rfl⟩ := h; rfl
theorem fblk_eq (h : SameBlock t u) : t.fblk = u.fblk := by obtain ⟨_, _, _, rfl⟩ := h; rfl

/-! ## The operands: no free value is read where the flag is set and the invariant holds (R116) -/

theorem subkey_eq (h : SameBlock t u) (hu : Inv u) (hv : u.fkv = true) (i : Fin 16) : t.subkey i = u.subkey i := by
  obtain ⟨o, rs, d, rfl⟩ := h
  have hfrk := hu.feistel hv i
  rw [subkey_of_some hfrk, subkey_of_some (by exact hfrk)]

theorem subkeys_eq (h : SameBlock t u) (hu : Inv u) (hv : u.fkv = true) : t.subkeys = u.subkeys :=
  congrArg Vector.ofFn (funext (h.subkey_eq hu hv))

theorem expandedKey_eq (h : SameBlock t u) (hu : Inv u) (hv : u.skv = true) : t.expandedKey = u.expandedKey := by
  obtain ⟨o, rs, d, rfl⟩ := h
  have hsrk := hu.spn hv
  rw [expandedKey_of_some hsrk, expandedKey_of_some (by exact hsrk)]

/-! ## The updates -/

theorem finish (h : SameBlock t u) (c : ErrCode) : SameBlock (finish c t) (finish c u) := by
  obtain ⟨o, rs, d, rfl⟩ := h
  exact ⟨o, rs, d, rfl⟩

theorem setData {D E : Block128} (h : SameBlock t u) (hD : D = E) : SameBlock (t.setData D) (u.setData E) := by
  obtain ⟨o, rs, d, rfl⟩ := h
  exact ⟨o, rs, d, hD ▸ rfl⟩

theorem setFblk {x y : Block64} (h : SameBlock t u) (hx : x = y) : SameBlock (t.setFblk x) (u.setFblk y) := by
  rw [State.setFblk, State.setFblk, h.data_eq, hx]
  exact h.setData rfl

theorem drew (h : SameBlock t u) (b c : Bool) : SameBlock (t.drew b) (u.drew c) := by
  obtain ⟨o, rs, d, rfl⟩ := h
  exact ⟨o, rs, _, rfl⟩

/-! ## The completion -/

theorem next (h : SameBlock t u) : SameAnswer (.next t) (.next u) := ⟨t, u, rfl, rfl, h⟩

theorem withFeistelSchedule {effect : State → State} (h : SameBlock t u)
    (heffect : u.fkv = true → SameBlock (effect t) (effect u)) :
    SameAnswer (withFeistelSchedule effect t) (withFeistelSchedule effect u) := by
  cases hv : u.fkv
  · rw [withFeistelSchedule_invalid hv, withFeistelSchedule_invalid (h.fkv_eq.trans hv)]
    exact (h.finish .noSchedule).next
  · rw [withFeistelSchedule_valid hv, withFeistelSchedule_valid (h.fkv_eq.trans hv)]
    exact ((heffect hv).finish .ok).next

theorem withSpnSchedule {effect : State → State} (h : SameBlock t u)
    (heffect : u.skv = true → SameBlock (effect t) (effect u)) :
    SameAnswer (withSpnSchedule effect t) (withSpnSchedule effect u) := by
  cases hv : u.skv
  · rw [withSpnSchedule_invalid hv, withSpnSchedule_invalid (h.skv_eq.trans hv)]
    exact (h.finish .noSchedule).next
  · rw [withSpnSchedule_valid hv, withSpnSchedule_valid (h.skv_eq.trans hv)]
    exact ((heffect hv).finish .ok).next

theorem addRoundKeyEffect (h : SameBlock t u) (hu : Inv u) (hv : u.skv = true) (n : Nat) :
    SameBlock (addRoundKeyEffect n t) (addRoundKeyEffect n u) :=
  (h.setData (by rw [h.data_eq, h.expandedKey_eq hu hv])).drew _ _

/-- A command works on KEY, DATA and the round keys, and reads none of the three fields that may differ. -/
theorem exec (h : SameBlock t u) (hu : Inv u) (i : Instr) : SameAnswer (exec i t) (exec i u) := by
  cases i with
  | nop => exact (h.finish .ok).next
  | fKs | sKx =>
    obtain ⟨o, rs, d, rfl⟩ := h
    exact SameBlock.next ⟨o, rs, d, rfl⟩
  | fIp | fFp | fSwap => exact ((h.setFblk (by rw [h.fblk_eq])).finish .ok).next
  | sSub | sIsub | sShr | sIshr | sMix | sImix => exact ((h.setData (by rw [h.data_eq])).finish .ok).next
  | fEnc | fDec =>
    exact h.withFeistelSchedule fun hv => (h.setFblk (by rw [h.fblk_eq, h.subkeys_eq hu hv])).drew _ _
  | fRnd rnd =>
    exact h.withFeistelSchedule fun hv => (h.setFblk (by rw [h.fblk_eq, h.subkey_eq hu hv])).drew _ _
  | sEnc | sDec =>
    exact h.withSpnSchedule fun hv => (h.setData (by rw [h.data_eq, h.expandedKey_eq hu hv])).drew _ _
  | sArk rnd =>
    by_cases hrnd : 10 < rnd.toNat
    · rw [exec_sArk_above t hrnd, exec_sArk_above u hrnd]
      exact (h.finish .badRound).next
    · rw [exec_sArk_upTo t (Nat.not_lt.1 hrnd), exec_sArk_upTo u (Nat.not_lt.1 hrnd)]
      exact h.withSpnSchedule fun hv => h.addRoundKeyEffect hu hv _

theorem completeCommand (h : SameBlock t u) (hu : Inv u) : SameAnswer (completeCommand t) (completeCommand u) := by
  cases hd : decode u.cmdl with
  | ok i =>
    rw [completeCommand_legal hd, completeCommand_legal (h.cmdl_eq ▸ hd)]
    exact h.exec hu i
  | error e =>
    rw [completeCommand_illegal hd, completeCommand_illegal (h.cmdl_eq ▸ hd)]
    exact (h.finish .illegalCmd).next

theorem step_of_no_inputs (h : SameBlock t u) (hu : Inv u) (hin : u.inputs = []) (hbusy : u.busy = true) :
    SameAnswer (step t) (step u) := by
  rw [step_idle hin, step_idle (h.inputs_eq.trans hin), coreTurn_busy hbusy, coreTurn_busy (h.busy_eq.trans hbusy)]
  exact h.completeCommand hu

end SameBlock

/-! ## The host's transactions on a busy block -/

theorem sameBlock_respond {p : Response × State} {u : State} (h : SameBlock p.2 u) : SameBlock (respond p) u := by
  obtain ⟨o, rs, d, h⟩ := h
  exact ⟨o, p.1 :: rs, d, by rw [respond, h]⟩

theorem memRead_sameBlock (off : Offset) (size : Nat) (s : State) : SameBlock (memRead off size s).2 s := by
  rcases memRead_state off size s with h | h <;> rw [h] <;> exact ⟨_, _, _, rfl⟩

/-- A busy block lets a write reach OVR only (R30, R61). -/
theorem memWrite_sameBlock {s : State} (hbusy : s.busy = true) (off : Offset) (size : Nat) (v : Word) :
    SameBlock (memWrite off size v s).2 s := by
  rcases memWrite_state off size v s with h | h | ⟨-, h⟩ | ⟨hidle, -⟩
  · rw [h]; exact .refl s
  · rw [h]; exact ⟨_, _, _, rfl⟩
  · rw [h]; exact ⟨_, _, _, rfl⟩
  · exact absurd (hidle.symm.trans hbusy) Bool.false_ne_true

theorem step_fromHost {s : State} {e : Event} {rest : List Event} (hbusy : s.busy = true) (he : fromHost e = true)
    (hin : s.inputs = e :: rest) : ∃ t, step s = .next t ∧ SameBlock t { s with inputs := rest } := by
  rw [step_input hin]
  cases e with
  | read off size => exact ⟨_, rfl, sameBlock_respond (memRead_sameBlock off size _)⟩
  | write off size v => exact ⟨_, rfl, sameBlock_respond (memWrite_sameBlock (by exact hbusy) off size v)⟩
  | core | reset => cases he

theorem stepMany_fromHost {evs : List Event} (hevs : ∀ e ∈ evs, fromHost e = true) : ∀ {s : State}, s.busy = true →
    s.inputs = evs → ∃ t, stepMany evs.length s = .next t ∧ SameBlock t { s with inputs := [] } := by
  induction evs with
  | nil => exact fun {s} _ hin => ⟨s, rfl, hin ▸ .refl s⟩
  | cons e rest ih =>
    intro s hbusy hin
    obtain ⟨m, hstep, hm⟩ := step_fromHost hbusy (hevs e List.mem_cons_self) hin
    have hrest : ∀ e' ∈ rest, fromHost e' = true := fun e' he' => hevs e' (List.mem_cons_of_mem e he')
    obtain ⟨t, hmany, ht⟩ := ih hrest (hm.busy_eq.trans hbusy) hm.inputs_eq
    exact ⟨t, by rw [List.length_cons, stepMany_succ_of_step hstep, hmany], ht.trans (hm.setInputs [])⟩

/-- Settles O27: the transactions leave the same block, on which the core's turn does the same. -/
theorem busyCommandIsUndisturbed : Obligations.BusyCommandIsUndisturbed := by
  unfold Obligations.BusyCommandIsUndisturbed
  intro s evs hinv hbusy hevs
  obtain ⟨m, hmany, hm⟩ := stepMany_fromHost hevs (s := { s with inputs := evs }) hbusy rfl
  have hinv' : Inv { s with inputs := [] } := hinv.of_same_keys ..
  obtain ⟨t, u, ht, hu, htu⟩ := hm.step_of_no_inputs hinv' rfl hbusy
  exact ⟨⟨m, hmany, hm.eq_update⟩, t, u, by rw [stepMany_add hmany, stepMany_one, ht], hu, htu.eq_update⟩

end Sys2Proof.Machine
end

section
/-! DES bit numbering of composed values (00_scope.md R10), and what the structural constraints say of each Feistel
table (41_feistel.md R131, R132, R135, R138 to R140). -/

namespace Sys2Proof.Machine

theorem getD_of_lt {α : Type} {n : Nat} (v : Vector α n) (d : α) {i : Nat} (hi : i < n) : v.getD i d = v[i] := by
  simp [Vector.getD, hi]

theorem dbit_append_left {a b : Nat} (x : BitVec a) (y : BitVec b) {n : Nat} (hn : n ≤ a) :
    dbit (x ++ y) n = dbit x n := by
  rw [dbit, dbit, BitVec.getLsbD_append, if_neg (by omega)]
  congr 1
  omega

theorem dbit_append_right {a b : Nat} (x : BitVec a) (y : BitVec b) {n : Nat} (h1 : 1 ≤ n) (hn : n ≤ b) :
    dbit (x ++ y) (a + n) = dbit y n := by
  rw [dbit, dbit, BitVec.getLsbD_append, if_pos (by omega)]
  congr 1
  omega

theorem dbit_not {N : Nat} (x : BitVec N) {n : Nat} (h1 : 1 ≤ n) (hN : n ≤ N) : dbit (~~~x) n = !dbit x n := by
  rw [dbit, dbit, BitVec.getLsbD_not, decide_eq_true (by omega), Bool.true_and]

/-- Rotation left by s reads bit i + s of the half, cyclically (R134). -/
theorem dbit_rotl28 (x : CdHalf) (s : Nat) {i : Nat} (hi : i < 28) :
    dbit (rotl28 x s) (i + 1) = dbit x ((i + s) % 28 + 1) := by
  rw [dbit, dbit, rotl28, BitVec.getLsbD_rotateLeft]
  by_cases h : 28 - (i + 1) < s % 28
  · rw [decide_eq_true h, cond_true]
    congr 1
    omega
  · rw [decide_eq_false h, cond_false, decide_eq_true (by omega), Bool.true_and]
    congr 1
    omega

/-- A selection of input bits carries the complement through (R10). -/
theorem perm_not {N m : Nat} {T : Vector Nat m} (hT : ∀ j : Fin m, 1 ≤ T[j] ∧ T[j] ≤ N) (x : BitVec N) :
    perm T (~~~x) = ~~~perm T x := by
  apply eq_of_dbit_eq
  intro j hj
  obtain ⟨hpos, hle⟩ := hT ⟨j, hj⟩
  rw [dbit_perm T _ j hj, dbit_not (perm T x) (by omega) (by omega), dbit_perm T x j hj]
  exact dbit_not x hpos hle

/-- Selecting by U and then by T is the identity where U undoes T entry by entry. -/
theorem perm_perm_of_undoes {T U : Vector Nat 64} (hT : ∀ j : Fin 64, 1 ≤ T[j] ∧ T[j] ≤ 64) (h : undoes U T = true)
    (x : Block64) : perm T (perm U x) = x := by
  apply eq_of_dbit_eq
  intro j hj
  obtain ⟨hpos, hle⟩ := hT ⟨j, hj⟩
  have hentry : T[j] - 1 + 1 = T[j] := Nat.sub_add_cancel hpos
  have hlt : T[j] - 1 < 64 := Nat.sub_one_lt_of_le hpos hle
  have hundo : U[T[j] - 1] = j + 1 := by
    have := List.all_eq_true.1 h j (List.mem_range.2 hj)
    rwa [getD_of_lt T 0 hj, getD_of_lt U 0 hlt, beq_iff_eq] at this
  rw [dbit_perm T _ j hj, ← hentry, dbit_perm U x _ hlt, hundo]

/-- What the constraints say of the entries of each table. -/
structure FeistelTablesSound (t : FeistelTables) : Prop where
  pc1 : ∀ j : Fin 56, 1 ≤ t.pc1[j] ∧ t.pc1[j] ≤ 64
  pc1_no_parity : ∀ j : Fin 56, t.pc1[j] % 8 ≠ 0
  pc2 : ∀ j : Fin 48, 1 ≤ t.pc2[j] ∧ t.pc2[j] ≤ 56
  ip : ∀ j : Fin 64, 1 ≤ t.ip[j] ∧ t.ip[j] ≤ 64
  fp : ∀ j : Fin 64, 1 ≤ t.fp[j] ∧ t.fp[j] ≤ 64
  e : ∀ j : Fin 48, 1 ≤ t.e[j] ∧ t.e[j] ≤ 32
  fp_undoes_ip : undoes t.fp t.ip = true
  ip_undoes_fp : undoes t.ip t.fp = true

theorem forall_getElem_of_all {α : Type} {n : Nat} {T : Vector α n} {p : α → Bool} (h : T.toList.all p = true)
    (j : Fin n) : p T[j] = true :=
  List.all_eq_true.1 h _ (by simp)

theorem entries_of_entriesWithin {n m : Nat} {T : Vector Nat m} (h : entriesWithin n T.toList = true) (j : Fin m) :
    1 ≤ T[j] ∧ T[j] ≤ n :=
  of_decide_eq_true (forall_getElem_of_all h j)

theorem feistelTablesSound {t : FeistelTables} (h : feistelTablesOk t = true) : FeistelTablesSound t := by
  simp only [feistelTablesOk, Bool.and_eq_true] at h
  obtain ⟨⟨⟨⟨⟨⟨⟨⟨⟨⟨⟨⟨hpc1, hparity⟩, -⟩, hpc2⟩, -⟩, hip⟩, -⟩, hfp⟩, hfpip⟩, hipfp⟩, he⟩, -⟩, -⟩ := h
  exact {
    pc1 := entries_of_entriesWithin hpc1
    pc1_no_parity := fun j => bne_iff_ne.1 (forall_getElem_of_all hparity j)
    pc2 := entries_of_entriesWithin hpc2
    ip := entries_of_entriesWithin hip
    fp := entries_of_entriesWithin hfp
    e := entries_of_entriesWithin he
    fp_undoes_ip := hfpip
    ip_undoes_fp := hipfp }

namespace FeistelTablesSound

variable {t : FeistelTables}

theorem perm_fp_ip (h : FeistelTablesSound t) (x : Block64) : perm t.fp (perm t.ip x) = x :=
  perm_perm_of_undoes h.fp h.ip_undoes_fp x

theorem perm_ip_fp (h : FeistelTablesSound t) (x : Block64) : perm t.ip (perm t.fp x) = x :=
  perm_perm_of_undoes h.ip h.fp_undoes_ip x

end FeistelTablesSound

theorem feistelTablesOk_default : feistelTablesOk feistelTables = true := by decide

/-- Settles O33: the entry of each table names the place of the other. -/
theorem initialAndFinalPermutationsAreInverse : Obligations.InitialAndFinalPermutationsAreInverse := by
  unfold Obligations.InitialAndFinalPermutationsAreInverse
  refine ⟨feistelTablesOk_default, fun t ht x => ?_⟩
  have hsound := feistelTablesSound ht
  exact ⟨hsound.perm_fp_ip x, hsound.perm_ip_fp x⟩

end Sys2Proof.Machine
end

section
/-! The Feistel key schedule bit by bit (41_feistel.md R133 to R137). -/

namespace Sys2Proof.Machine

/-- The sum of the shifts of rounds 1 to n (R133). -/
def totalShift : Nat → Nat
  | 0 => 0
  | n + 1 => totalShift n + shiftAmount (n + 1)

/-- Bit i + 1 of each half after n rounds is the bit of the half before round 1 that lies the sum of the shifts further
on, cyclically (R136). -/
theorem dbit_cdAfter (t : FeistelTables) (k : Block64) (n : Nat) : ∀ i < 28,
    dbit (cdAfter t k n).1 (i + 1) = dbit (cdAfter t k 0).1 ((i + totalShift n) % 28 + 1) ∧
    dbit (cdAfter t k n).2 (i + 1) = dbit (cdAfter t k 0).2 ((i + totalShift n) % 28 + 1) := by
  induction n with
  | zero =>
    intro i hi
    simp [totalShift, Nat.mod_eq_of_lt hi]
  | succ n ih =>
    intro i hi
    have hplace : ((i + shiftAmount (n + 1)) % 28 + totalShift n) % 28 = (i + totalShift (n + 1)) % 28 := by
      rw [totalShift, Nat.mod_add_mod, Nat.add_assoc, Nat.add_comm (shiftAmount (n + 1))]
    obtain ⟨hC, hD⟩ := ih ((i + shiftAmount (n + 1)) % 28) (Nat.mod_lt _ (by decide))
    rw [hplace] at hC hD
    exact ⟨(dbit_rotl28 _ _ hi).trans hC, (dbit_rotl28 _ _ hi).trans hD⟩

/-- The halves before round 1, put together, are Perm_PC1(k) (R136). -/
theorem cdAfter_zero_append (t : FeistelTables) (k : Block64) :
    (cdAfter t k 0).1 ++ (cdAfter t k 0).2 = perm t.pc1 k :=
  (BitVec.extractLsb'_append_extractLsb'_eq_extractLsb' rfl).trans BitVec.extractLsb'_eq_self

/-- The place of PC-1, counted from 0, of the bit at place p of the halves {C, D} after shifts by `total`. -/
def cdPlace (total p : Nat) : Nat := if p ≤ 28 then (p - 1 + total) % 28 else 28 + (p - 29 + total) % 28

theorem cdPlace_lt (total p : Nat) : cdPlace total p < 56 := by
  unfold cdPlace
  split <;> omega

theorem dbit_cdAfter_append (t : FeistelTables) (k : Block64) (n : Nat) {p : Nat} (hpos : 1 ≤ p) (hle : p ≤ 56) :
    dbit ((cdAfter t k n).1 ++ (cdAfter t k n).2) p =
      dbit k (t.pc1[cdPlace (totalShift n) p]'(cdPlace_lt _ _)) := by
  rw [← dbit_perm t.pc1 k _ (cdPlace_lt _ _), ← cdAfter_zero_append]
  have hmod (q : Nat) : q % 28 + 1 ≤ 28 := Nat.mod_lt q (by decide)
  by_cases h : p ≤ 28
  · obtain ⟨i, rfl⟩ : ∃ i, p = i + 1 := ⟨p - 1, by omega⟩
    rw [cdPlace, if_pos h, Nat.add_sub_cancel, dbit_append_left _ _ h, dbit_append_left _ _ (hmod _)]
    exact (dbit_cdAfter t k n i (by omega)).1
  · obtain ⟨i, rfl⟩ : ∃ i, p = 28 + (i + 1) := ⟨p - 29, by omega⟩
    have hoffset : 28 + (i + 1) - 29 = i := by omega
    rw [cdPlace, if_neg h, hoffset, dbit_append_right _ _ (by omega) (by omega), Nat.add_assoc 28,
      dbit_append_right _ _ (by omega) (hmod _)]
    exact (dbit_cdAfter t k n i (by omega)).2

theorem dbit_keySchedule {t : FeistelTables} (ht : FeistelTablesSound t) (k : Block64) (n : Fin 16) (j : Fin 48) :
    dbit (keySchedule t k)[n] (j.val + 1) =
      dbit k (t.pc1[cdPlace (totalShift (n.val + 1)) t.pc2[j]]'(cdPlace_lt _ _)) := by
  obtain ⟨hpos, hle⟩ := ht.pc2 j
  have hsubkey : (keySchedule t k)[n] = subkeyOfRound t k (n.val + 1) := by simp [keySchedule]
  rw [hsubkey, subkeyOfRound, dbit_perm t.pc2 _ _ j.isLt]
  exact dbit_cdAfter_append t k _ hpos hle

/-- Settles O31: the sums of the shifts are the numbers listed. -/
theorem subkeyBits : Obligations.SubkeyBits := by
  unfold Obligations.SubkeyBits
  intro t ht k n j
  have htotal : ∀ n : Fin 16, (#v[1, 2, 4, 6, 8, 10, 12, 14, 15, 17, 19, 21, 23, 25, 27, 28] : Vector Nat 16)[n] =
      totalShift (n.val + 1) := by decide
  rw [htotal, dbit_keySchedule (feistelTablesSound ht), ← getD_of_lt _ 0]
  rfl

/-- Two keys that agree in the bits that are no parity bits have the same schedule (R137). -/
theorem keySchedule_congr {t : FeistelTables} (ht : FeistelTablesSound t) {k k' : Block64}
    (h : ∀ n, 1 ≤ n → n ≤ 64 → n % 8 ≠ 0 → dbit k n = dbit k' n) : keySchedule t k = keySchedule t k' := by
  apply Vector.ext
  intro i hi
  apply eq_of_dbit_eq
  intro j hj
  obtain ⟨hpos, hle⟩ := ht.pc1 ⟨_, cdPlace_lt (totalShift (i + 1)) t.pc2[j]⟩
  have hparity := ht.pc1_no_parity ⟨_, cdPlace_lt (totalShift (i + 1)) t.pc2[j]⟩
  calc dbit (keySchedule t k)[i] (j + 1)
      = dbit k (t.pc1[cdPlace (totalShift (i + 1)) t.pc2[j]]'(cdPlace_lt _ _)) :=
        dbit_keySchedule ht k ⟨i, hi⟩ ⟨j, hj⟩
    _ = dbit k' (t.pc1[cdPlace (totalShift (i + 1)) t.pc2[j]]'(cdPlace_lt _ _)) := h _ hpos hle hparity
    _ = dbit (keySchedule t k')[i] (j + 1) := (dbit_keySchedule ht k' ⟨i, hi⟩ ⟨j, hj⟩).symm

/-- The complement of the key complements every subkey. -/
theorem keySchedule_not {t : FeistelTables} (ht : FeistelTablesSound t) (k : Block64) :
    keySchedule t (~~~k) = (keySchedule t k).map (~~~·) := by
  apply Vector.ext
  intro i hi
  rw [Vector.getElem_map]
  apply eq_of_dbit_eq
  intro j hj
  obtain ⟨hpos, hle⟩ := ht.pc1 ⟨_, cdPlace_lt (totalShift (i + 1)) t.pc2[j]⟩
  calc dbit (keySchedule t (~~~k))[i] (j + 1)
      = dbit (~~~k) (t.pc1[cdPlace (totalShift (i + 1)) t.pc2[j]]'(cdPlace_lt _ _)) :=
        dbit_keySchedule ht _ ⟨i, hi⟩ ⟨j, hj⟩
    _ = !dbit k (t.pc1[cdPlace (totalShift (i + 1)) t.pc2[j]]'(cdPlace_lt _ _)) := dbit_not k hpos hle
    _ = !dbit (keySchedule t k)[i] (j + 1) := congrArg _ (dbit_keySchedule ht k ⟨i, hi⟩ ⟨j, hj⟩).symm
    _ = dbit (~~~(keySchedule t k)[i]) (j + 1) := (dbit_not _ (by omega) (by omega)).symm

theorem cdAfter_sixteen (t : FeistelTables) (k : Block64) : cdAfter t k 16 = cdAfter t k 0 := by
  have hwhole : ∀ i < 28, (i + totalShift 16) % 28 = i := by decide
  apply Prod.ext <;> apply eq_of_dbit_eq <;> intro i hi
  · rw [(dbit_cdAfter t k 16 i hi).1, hwhole i hi]
  · rw [(dbit_cdAfter t k 16 i hi).2, hwhole i hi]

theorem keySchedule_zero {t : FeistelTables} (ht : FeistelTablesSound t) (i : Fin 16) : (keySchedule t 0)[i] = 0 := by
  apply eq_of_dbit_eq
  intro j hj
  refine (dbit_keySchedule ht 0 i ⟨j, hj⟩).trans ?_
  simp [dbit]

/-- Settles O32: the shifts sum to 28; no subkey bit is a parity bit; and the three keys are all zeros or all ones but
for the parity bits. -/
theorem keyScheduleProperties : Obligations.KeyScheduleProperties := by
  unfold Obligations.KeyScheduleProperties
  have ht := feistelTablesSound feistelTablesOk_default
  refine ⟨cdAfter_sixteen, fun t ht k k' h => keySchedule_congr (feistelTablesSound ht) h, fun i => ?_⟩
  have hzeros := keySchedule_zero ht i
  have hones : (keySchedule feistelTables (~~~0))[i] = ~~~0 := by
    rw [keySchedule_not ht]
    exact (Vector.getElem_map _ i.isLt).trans (congrArg _ hzeros)
  have bits {k k' : Block64} (h : ∀ n ∈ List.range' 1 64, n % 8 ≠ 0 → dbit k n = dbit k' n) :
      keySchedule feistelTables k = keySchedule feistelTables k' :=
    keySchedule_congr ht fun n hpos hle => h n (List.mem_range'_1.2 ⟨hpos, by omega⟩)
  refine ⟨?_, ?_, hones⟩
  · rw [bits (k' := 0) (by decide)]
    exact hzeros
  · rw [bits (k' := ~~~0) (by decide)]
    exact hones

end Sys2Proof.Machine
end

section
/-! The round function of the Feistel engine from its lookups (41_feistel.md R142, R144). -/

namespace Sys2Proof.Machine

theorem sLookup_row_toNat : ∀ g : BitVec 6, (g.extractLsb' 5 1 ++ g.extractLsb' 0 1 : BitVec 2).toNat =
    2 * (g.getLsbD 5).toNat + (g.getLsbD 0).toNat := by decide

theorem sLookup_col_toNat : ∀ g : BitVec 6, (g.extractLsb' 1 4).toNat =
    8 * (g.getLsbD 4).toNat + 4 * (g.getLsbD 3).toNat + 2 * (g.getLsbD 2).toNat + (g.getLsbD 1).toNat := by decide

theorem sLookup_eq_getD (t : FeistelTables) (m : Fin 8) (g : BitVec 6) :
    sLookup t m g = (t.sboxes[m].getD (2 * (g.getLsbD 5).toNat + (g.getLsbD 0).toNat) (Vector.replicate 16 0)).getD
      (8 * (g.getLsbD 4).toNat + 4 * (g.getLsbD 3).toNat + 2 * (g.getLsbD 2).toNat + (g.getLsbD 1).toNat) 0 := by
  have hrow := (g.extractLsb' 5 1 ++ g.extractLsb' 0 1 : BitVec 2).isLt
  have hcol := (g.extractLsb' 1 4).isLt
  rw [← sLookup_row_toNat, ← sLookup_col_toNat, getD_of_lt _ _ hrow, getD_of_lt _ _ hcol]
  rfl

/-- The nibbles of a word put together from eight, the first the most significant. -/
theorem extractLsb'_append8 (o : Fin 8 → BitVec 4) (m : Fin 8) :
    (o 0 ++ o 1 ++ o 2 ++ o 3 ++ o 4 ++ o 5 ++ o 6 ++ o 7).extractLsb' (28 - 4 * m.val) 4 = o m := by
  fin_cases m
  all_goals repeat rw [BitVec.extractLsb'_append_eq_of_le (by decide)]
  · exact BitVec.extractLsb'_eq_self
  all_goals exact BitVec.extractLsb'_append_eq_right

/-- Nibble m of the eight lookups is the lookup of group m (R144). -/
theorem extractLsb'_sLayer (t : FeistelTables) (x : BitVec 48) (m : Fin 8) :
    (sLayer t x).extractLsb' (28 - 4 * m.val) 4 = sLookup t m (x.extractLsb' (42 - 6 * m.val) 6) :=
  extractLsb'_append8 (fun m => sLookup t m (x.extractLsb' (42 - 6 * m.val) 6)) m

/-- Settles O34: the row and column numbers by the bits of the group, and F's word by its nibbles. -/
theorem roundFunctionLookups : Obligations.RoundFunctionLookups := by
  unfold Obligations.RoundFunctionLookups
  refine ⟨sLookup_eq_getD, fun t R K => ⟨sLayer t (perm t.e R ^^^ K), extractLsb'_sLayer t _, fun j => ?_⟩⟩
  exact dbit_perm t.p _ j.val j.isLt

end Sys2Proof.Machine
end

section
/-! The Feistel rounds and the block transform (41_feistel.md R145 to R148): the same rounds with the subkeys reversed
undo them on the swapped halves, and the complement passes through every part but F. -/

namespace Sys2Proof.Machine

/-- A fold is undone by the fold of the reversed list where each step undoes the step of the same element; c is what
stands between the two. -/
theorem foldl_reverse_foldl {σ τ α : Type} {f : σ → α → σ} {g : τ → α → τ} {c : σ → τ}
    (h : ∀ s a, g (c (f s a)) a = c s) (l : List α) (s : σ) : l.reverse.foldl g (c (l.foldl f s)) = c s := by
  induction l generalizing s with
  | nil => rfl
  | cons a l ih => rw [List.reverse_cons, List.foldl_append, List.foldl_cons (f := f), ih, List.foldl_cons,
    List.foldl_nil, h]

/-- Settles O35: the second half is XORed twice with the same value. -/
theorem roundIsInvertible : Obligations.RoundIsInvertible := by
  unfold Obligations.RoundIsInvertible
  intro t L R K
  exact ⟨rfl, congrArg (·, R) (xor_cancel_right _ _)⟩

/-- On swapped halves a round undoes the round of the same subkey. -/
theorem feistelRound_swap_feistelRound (t : FeistelTables) (lr : Half × Half) (k : Subkey) :
    feistelRound t (feistelRound t lr k).swap k = lr.swap :=
  congrArg (lr.2, ·) (xor_cancel_right _ _)

theorem feistelRounds_reverse (t : FeistelTables) (lr : Half × Half) (ks : List Subkey) :
    feistelRounds t (feistelRounds t lr ks).swap ks.reverse = lr.swap :=
  foldl_reverse_foldl (feistelRound_swap_feistelRound t) ks lr

/-- The block of two halves (R146). -/
def joinHalves (lr : Half × Half) : Block64 := lr.1 ++ lr.2

@[simp] theorem halves_joinHalves (lr : Half × Half) : halves (joinHalves lr) = lr :=
  Prod.ext BitVec.extractLsb'_append_eq_left BitVec.extractLsb'_append_eq_right

@[simp] theorem joinHalves_halves (x : Block64) : joinHalves (halves x) = x :=
  (BitVec.extractLsb'_append_extractLsb'_eq_extractLsb' rfl).trans BitVec.extractLsb'_eq_self

theorem feistelBlock_eq (t : FeistelTables) (x : Block64) (ks : Vector Subkey 16) :
    feistelBlock t x ks = perm t.fp (joinHalves (feistelRounds t (halves (perm t.ip x)) ks.toList).swap) := rfl

/-- The block transform under the reversed subkeys undoes it, for any subkeys (R147). -/
theorem feistelBlock_reverse {t : FeistelTables} (ht : FeistelTablesSound t) (x : Block64) (ks : Vector Subkey 16) :
    feistelBlock t (feistelBlock t x ks) ks.reverse = x := by
  rw [feistelBlock_eq t _ ks.reverse, feistelBlock_eq t x ks, ht.perm_ip_fp, halves_joinHalves, Vector.toList_reverse,
    feistelRounds_reverse, Prod.swap_swap, joinHalves_halves, ht.perm_fp_ip]

/-- Settles O36: the reversed schedule by its indices, and the block transform it undoes. -/
theorem feistelDecryptionInverts : Obligations.FeistelDecryptionInverts := by
  unfold Obligations.FeistelDecryptionInverts
  refine ⟨fun t x k => ⟨(keySchedule t k).reverse, rfl, fun i => ?_⟩, fun t ht x k => ?_⟩
  · exact Vector.getElem_reverse i.isLt
  · exact feistelBlock_reverse (feistelTablesSound ht) x (keySchedule t k)

/-! ## The complement (R148) -/

theorem not_xor_not {n : Nat} (a b : BitVec n) : ~~~a ^^^ ~~~b = a ^^^ b := by
  rw [← BitVec.not_xor_left, ← BitVec.not_xor_right, BitVec.not_not]

/-- The complements of the half and of the subkey cancel before the S-boxes. -/
theorem roundF_not {t : FeistelTables} (ht : FeistelTablesSound t) (R : Half) (K : Subkey) :
    roundF t (~~~R) (~~~K) = roundF t R K := by
  rw [roundF, roundF, perm_not ht.e, not_xor_not]

/-- Both halves complemented. -/
def notHalves (lr : Half × Half) : Half × Half := (~~~lr.1, ~~~lr.2)

theorem joinHalves_notHalves (lr : Half × Half) : joinHalves (notHalves lr) = ~~~joinHalves lr :=
  BitVec.not_append.symm

theorem halves_not (x : Block64) : halves (~~~x) = notHalves (halves x) := by
  rw [← halves_joinHalves (notHalves (halves x)), joinHalves_notHalves, joinHalves_halves]

theorem feistelRound_not {t : FeistelTables} (ht : FeistelTablesSound t) (lr : Half × Half) (K : Subkey) :
    feistelRound t (notHalves lr) (~~~K) = notHalves (feistelRound t lr K) := by
  apply Prod.ext
  · rfl
  · exact (congrArg (~~~lr.1 ^^^ ·) (roundF_not ht lr.2 K)).trans (BitVec.not_xor_left ..).symm

theorem feistelRounds_not {t : FeistelTables} (ht : FeistelTablesSound t) (lr : Half × Half) (ks : List Subkey) :
    feistelRounds t (notHalves lr) (ks.map (~~~·)) = notHalves (feistelRounds t lr ks) := by
  induction ks generalizing lr with
  | nil => rfl
  | cons k ks ih => exact (congrArg (feistelRounds t · _) (feistelRound_not ht lr k)).trans (ih _)

theorem feistelBlock_not {t : FeistelTables} (ht : FeistelTablesSound t) (x : Block64) (ks : Vector Subkey 16) :
    feistelBlock t (~~~x) (ks.map (~~~·)) = ~~~feistelBlock t x ks := by
  have hswap (lr : Half × Half) : (notHalves lr).swap = notHalves lr.swap := rfl
  rw [feistelBlock_eq, feistelBlock_eq, perm_not ht.ip, halves_not, Vector.toList_map, feistelRounds_not ht, hswap,
    joinHalves_notHalves, perm_not ht.fp]

/-- Settles O37: the complemented key complements every subkey, and the block transform of complements is the
complement. -/
theorem feistelComplementProperty : Obligations.FeistelComplementProperty := by
  unfold Obligations.FeistelComplementProperty
  intro t ht x k
  have hsound := feistelTablesSound ht
  rw [feistelEnc, keySchedule_not hsound, feistelBlock_not hsound, feistelEnc]

end Sys2Proof.Machine
end

section
/-! The Feistel engine's views of DATA (10_state.md R21; 41_feistel.md section 2): a function of the block
DATA[127:64], and one of its two halves. -/

namespace Sys2Proof.Machine

/-- DATA with f applied to DATA[127:64] (R21). -/
def onFblk (f : Block64 → Block64) (D : Block128) : Block128 := f (D.extractLsb' 64 64) ++ D.extractLsb' 0 64

/-- The block with g applied to its halves (R145, R166). -/
def onHalves (g : Half × Half → Half × Half) (x : Block64) : Block64 := joinHalves (g (halves x))

@[simp] theorem onFblk_onFblk (g f : Block64 → Block64) (D : Block128) :
    onFblk g (onFblk f D) = onFblk (fun x => g (f x)) D := by
  simp only [onFblk, BitVec.extractLsb'_append_eq_left, BitVec.extractLsb'_append_eq_right]

theorem onFblk_eq_self {f : Block64 → Block64} (h : ∀ x, f x = x) (D : Block128) : onFblk f D = D := by
  rw [onFblk, h]
  exact (BitVec.extractLsb'_append_extractLsb'_eq_extractLsb' rfl).trans BitVec.extractLsb'_eq_self

@[simp] theorem onHalves_onHalves (g f : Half × Half → Half × Half) (x : Block64) :
    onHalves g (onHalves f x) = onHalves (fun lr => g (f lr)) x := by
  simp only [onHalves, halves_joinHalves]

theorem halves_extractLsb' (D : Block128) (start : Nat) :
    halves (D.extractLsb' start 64) = (D.extractLsb' (start + 32) 32, D.extractLsb' start 32) := by
  apply Prod.ext <;> apply BitVec.eq_of_getLsbD_eq <;> intro i hi
  · simp [halves, hi, Nat.add_assoc, show 32 + i < 64 by omega]
  · simp [halves, hi, show i < 64 by omega]

theorem halves_high (D : Block128) : halves (D.extractLsb' 64 64) = (wordOf D 0, wordOf D 1) := halves_extractLsb' D 64

theorem halves_low (D : Block128) : halves (D.extractLsb' 0 64) = (wordOf D 2, wordOf D 3) := halves_extractLsb' D 0

theorem extractLsb'_onFblk_low (f : Block64 → Block64) (D : Block128) :
    (onFblk f D).extractLsb' 0 64 = D.extractLsb' 0 64 := BitVec.extractLsb'_append_eq_right

/-- A function of the halves acts on DATA0 and DATA1 and leaves DATA2 and DATA3. -/
theorem wordOf_onFblk_onHalves (g : Half × Half → Half × Half) (D : Block128) :
    wordOf (onFblk (onHalves g) D) 0 = (g (wordOf D 0, wordOf D 1)).1 ∧
    wordOf (onFblk (onHalves g) D) 1 = (g (wordOf D 0, wordOf D 1)).2 ∧
    wordOf (onFblk (onHalves g) D) 2 = wordOf D 2 ∧ wordOf (onFblk (onHalves g) D) 3 = wordOf D 3 := by
  have hhigh : (onFblk (onHalves g) D).extractLsb' 64 64 = joinHalves (g (wordOf D 0, wordOf D 1)) := by
    rw [← halves_high]
    exact BitVec.extractLsb'_append_eq_left
  have h01 := halves_high (onFblk (onHalves g) D)
  have h23 := halves_low (onFblk (onHalves g) D)
  rw [hhigh, halves_joinHalves] at h01
  rw [extractLsb'_onFblk_low, halves_low] at h23
  rw [h01]
  exact ⟨rfl, rfl, (congrArg Prod.fst h23).symm, (congrArg Prod.snd h23).symm⟩

/-- Bit j of a permutation of the block is the bit of DATA that the table names (R10, R21). -/
theorem dbit_onFblk_perm {T : Vector Nat 64} (hT : ∀ j : Fin 64, 1 ≤ T[j] ∧ T[j] ≤ 64) (D : Block128) (j : Fin 64) :
    dbit (onFblk (perm T) D) (j.val + 1) = dbit D T[j] := by
  obtain ⟨hpos, hle⟩ := hT j
  have hhigh : D.extractLsb' 64 64 ++ D.extractLsb' 0 64 = D := onFblk_eq_self (f := id) (fun _ => rfl) D
  calc dbit (onFblk (perm T) D) (j.val + 1)
      = dbit (perm T (D.extractLsb' 64 64)) (j.val + 1) := dbit_append_left _ _ j.isLt
    _ = dbit (D.extractLsb' 64 64) T[j] := dbit_perm T _ j.val j.isLt
    _ = dbit D T[j] := by rw [← dbit_append_left _ (D.extractLsb' 0 64) hle, hhigh]

end Sys2Proof.Machine
end

section
/-! Sequences of commands that work on DATA alone: each applies one function to DATA, and a sequence applies their
composition. -/

namespace Sys2Proof.Machine

theorem execAll_singleton (i : Instr) (s : State) : execAll [i] s = exec i s := by
  unfold execAll
  cases exec i s <;> rfl

theorem execAll_append {is : List Instr} {s t : State} (h : execAll is s = .next t) (js : List Instr) :
    execAll (is ++ js) s = execAll js t := by
  induction is generalizing s with
  | nil =>
    injection h with h
    rw [List.nil_append, h]
  | cons i is ih =>
    cases hi : exec i s with
    | next u =>
      simp only [execAll, hi] at h
      simpa only [List.cons_append, execAll, hi] using ih h
    | fault r => cases r
    | refused r => simp [execAll, hi] at h

/-- The states that differ from s in DATA and in what a completion writes, ERR, BUSY and DONE, and in nothing else. -/
def SameButData (u s : State) : Prop := ∃ D e b d, u = { s with data := D, err := e, busy := b, done := d }

namespace SameButData

variable {u s : State}

theorem refl (s : State) : SameButData s s := ⟨_, _, _, _, rfl⟩

theorem completed (h : SameButData u s) (D : Block128) : SameButData (finish .ok (u.setData D)) s := by
  obtain ⟨_, _, _, _, rfl⟩ := h
  exact ⟨_, _, _, _, rfl⟩

theorem fkv_eq (h : SameButData u s) : u.fkv = s.fkv := by obtain ⟨_, _, _, _, rfl⟩ := h; rfl
theorem skv_eq (h : SameButData u s) : u.skv = s.skv := by obtain ⟨_, _, _, _, rfl⟩ := h; rfl
theorem frk_eq (h : SameButData u s) : u.frk = s.frk := by obtain ⟨_, _, _, _, rfl⟩ := h; rfl
theorem srk_eq (h : SameButData u s) : u.srk = s.srk := by obtain ⟨_, _, _, _, rfl⟩ := h; rfl

end SameButData

/-- From s, whatever its DATA and lifecycle flags are, the commands complete one after another with f applied to DATA,
and no other element changes. -/
def ActsOnData (s : State) (is : List Instr) (f : Block128 → Block128) : Prop :=
  ∀ u, SameButData u s → execAll is u = .next (finish .ok (u.setData (f u.data)))

namespace ActsOnData

variable {s : State} {is js : List Instr} {i : Instr} {f g : Block128 → Block128}

theorem execAll_eq (h : ActsOnData s is f) :
    execAll is s = .next { s with data := f s.data, err := .ok, busy := false, done := true } :=
  h s (.refl s)

theorem exec_eq (h : ActsOnData s [i] f) :
    exec i s = .next { s with data := f s.data, err := .ok, busy := false, done := true } :=
  (execAll_singleton i s).symm.trans h.execAll_eq

theorem execAll_eq_of_eq_self (h : ActsOnData s is f) (hf : ∀ D, f D = D) :
    execAll is s = .next { s with err := .ok, busy := false, done := true } := by
  rw [h.execAll_eq, hf]

theorem congr (h : ActsOnData s is f) (hfg : ∀ D, f D = g D) : ActsOnData s is g :=
  fun u hu => (h u hu).trans (by rw [hfg])

theorem append (h : ActsOnData s is f) (h' : ActsOnData s js g) : ActsOnData s (is ++ js) fun D => g (f D) := by
  intro u hu
  rw [execAll_append (h u hu), h' _ (hu.completed _)]
  rfl

theorem append_map {α : Type} {c : α → Instr} {r : Block128 → α → Block128} (h : ActsOnData s is f)
    (hc : ∀ a, ActsOnData s [c a] fun D => r D a) (as : List α) :
    ActsOnData s (is ++ as.map c) fun D => as.foldl r (f D) := by
  induction as generalizing is f with
  | nil => simpa using h
  | cons a as ih => simpa using ih (h.append (hc a))

theorem of_exec (h : ∀ u, SameButData u s → exec i u = .next (finish .ok (u.setData (f u.data)))) :
    ActsOnData s [i] f :=
  fun u hu => (execAll_singleton i u).trans (h u hu)

end ActsOnData

end Sys2Proof.Machine
end

section
/-! The Feistel commands (41_feistel.md section 2: R160 to R167), each as a function of DATA. -/

namespace Sys2Proof.Machine

/-- FKV = 1 and FRK holds the subkeys ks. -/
structure HoldsSubkeys (s : State) (ks : Vector Subkey 16) : Prop where
  fkv : s.fkv = true
  frk : ∀ i : Fin 16, s.frk[i] = some ks[i]

theorem holdsSubkeys_subkeys {s : State} (hfkv : s.fkv = true) (hfrk : ∀ i : Fin 16, s.frk[i].isSome = true) :
    HoldsSubkeys s s.subkeys := by
  refine ⟨hfkv, fun i => ?_⟩
  obtain ⟨k, hk⟩ := Option.isSome_iff_exists.1 (hfrk i)
  rw [hk, ← subkey_of_some hk]
  simp [State.subkeys]

namespace HoldsSubkeys

variable {s : State} {ks : Vector Subkey 16}

theorem full_frk (h : HoldsSubkeys s ks) : full s.frk = true :=
  (full_iff _).2 fun i => by rw [h.frk i]; rfl

theorem of_sameButData {u : State} (h : HoldsSubkeys s ks) (hu : SameButData u s) : HoldsSubkeys u ks :=
  ⟨hu.fkv_eq.trans h.fkv, hu.frk_eq ▸ h.frk⟩

/-- A block command on filled round keys draws no free value. -/
theorem withFeistelSchedule_block (h : HoldsSubkeys s ks) (order : Vector Subkey 16 → Vector Subkey 16) :
    withFeistelSchedule
      (fun s => (s.setFblk (feistelBlock feistelTables s.fblk (order s.subkeys))).drew !(full s.frk)) s =
      .next (finish .ok (s.setFblk (feistelBlock feistelTables s.fblk (order ks)))) := by
  rw [withFeistelSchedule_valid h.fkv, subkeys_of_some h.frk, h.full_frk]
  rfl

theorem fEnc (h : HoldsSubkeys s ks) : ActsOnData s [.fEnc] (onFblk fun x => feistelBlock feistelTables x ks) :=
  .of_exec fun _ hu => (h.of_sameButData hu).withFeistelSchedule_block id

theorem fDec (h : HoldsSubkeys s ks) :
    ActsOnData s [.fDec] (onFblk fun x => feistelBlock feistelTables x ks.reverse) :=
  .of_exec fun _ hu => (h.of_sameButData hu).withFeistelSchedule_block Vector.reverse

end HoldsSubkeys

theorem actsOnData_fIp (s : State) : ActsOnData s [.fIp] (onFblk (perm feistelTables.ip)) := .of_exec fun _ _ => rfl

theorem actsOnData_fFp (s : State) : ActsOnData s [.fFp] (onFblk (perm feistelTables.fp)) := .of_exec fun _ _ => rfl

theorem actsOnData_fSwap (s : State) : ActsOnData s [.fSwap] (onFblk (onHalves Prod.swap)) := .of_exec fun _ _ => rfl

/-- One round with the subkey K on the halves in DATA (R165). -/
def feistelRoundOnData (D : Block128) (K : Subkey) : Block128 :=
  onFblk (onHalves fun lr => feistelRound feistelTables lr K) D

theorem exec_fRnd_valid {s : State} {rnd : BitVec 4} {K : Subkey} (hfkv : s.fkv = true)
    (hK : s.frk[rnd.toFin] = some K) : exec (.fRnd rnd) s =
      .next (finish .ok (s.setFblk (onHalves (fun lr => feistelRound feistelTables lr K) s.fblk))) := by
  have hexec : exec (.fRnd rnd) s = withFeistelSchedule (feistelRoundEffect rnd) s := rfl
  rw [hexec, withFeistelSchedule_valid hfkv, feistelRoundEffect, subkey_of_some hK, hK]
  rfl

theorem actsOnData_fRnd {s : State} {rnd : BitVec 4} {K : Subkey} (hfkv : s.fkv = true)
    (hK : s.frk[rnd.toFin] = some K) :
    ActsOnData s [.fRnd rnd] fun D => feistelRoundOnData D K :=
  .of_exec fun _ hu => exec_fRnd_valid (hu.fkv_eq.trans hfkv) (hu.frk_eq ▸ hK)

/-- Settles O30: F_KS is the effect that writes the schedule. -/
theorem feistelScheduleCommand : Obligations.FeistelScheduleCommand := by
  unfold Obligations.FeistelScheduleCommand
  intro s
  refine ⟨(keySchedule feistelTables s.fkey).map some, rfl, fun i => ?_⟩
  exact Vector.getElem_map _ i.isLt

/-- Settles O38: both commands are the block transform of DATA[127:64]. -/
theorem feistelBlockCommands : Obligations.FeistelBlockCommands := by
  unfold Obligations.FeistelBlockCommands
  intro s ks hfkv hfrk
  have hs : HoldsSubkeys s ks := ⟨hfkv, hfrk⟩
  exact ⟨hs.fEnc.exec_eq, hs.fDec.exec_eq⟩

/-- Settles O39: one round on the halves, which are DATA0 and DATA1. -/
theorem feistelRoundCommand : Obligations.FeistelRoundCommand := by
  unfold Obligations.FeistelRoundCommand
  intro s rnd K hfkv hK
  exact ⟨_, (actsOnData_fRnd hfkv hK).exec_eq, wordOf_onFblk_onHalves _ s.data⟩

/-- Settles O40: the tables select within the block, and the swap exchanges the halves. -/
theorem feistelPermutationCommands : Obligations.FeistelPermutationCommands := by
  unfold Obligations.FeistelPermutationCommands
  intro s
  have ht := feistelTablesSound feistelTablesOk_default
  exact ⟨⟨_, (actsOnData_fIp s).exec_eq, dbit_onFblk_perm ht.ip s.data, extractLsb'_onFblk_low _ _⟩,
    ⟨_, (actsOnData_fFp s).exec_eq, dbit_onFblk_perm ht.fp s.data, extractLsb'_onFblk_low _ _⟩,
    ⟨_, (actsOnData_fSwap s).exec_eq, wordOf_onFblk_onHalves _ s.data⟩⟩

/-! ## The layer sequences (R167) -/

theorem foldl_feistelRoundOnData (ks : List Subkey) (D : Block128) :
    ks.foldl feistelRoundOnData D = onFblk (onHalves fun lr => feistelRounds feistelTables lr ks) D := by
  induction ks generalizing D with
  | nil => exact (onFblk_eq_self joinHalves_halves D).symm
  | cons K ks ih =>
    rw [List.foldl_cons, ih, feistelRoundOnData, onFblk_onFblk]
    simp only [onHalves_onHalves]
    rfl

/-- The layers with the rounds in an order that reads the subkeys as `used` are the block transform under `used`. -/
theorem HoldsSubkeys.feistelLayers {s : State} {ks used : Vector Subkey 16} (h : HoldsSubkeys s ks)
    {order : List (BitVec 4)} (horder : order.map (fun rnd => ks[rnd.toFin]) = used.toList) :
    ActsOnData s (feistelLayers order) (onFblk fun x => feistelBlock feistelTables x used) := by
  have hrounds := (actsOnData_fIp s).append_map (fun rnd => actsOnData_fRnd h.fkv (h.frk rnd.toFin)) order
  have hlayers := hrounds.append ((actsOnData_fSwap s).append (actsOnData_fFp s))
  have hfold (D : Block128) : order.foldl (fun D rnd => feistelRoundOnData D ks[rnd.toFin]) D =
      onFblk (onHalves fun lr => feistelRounds feistelTables lr used.toList) D := by
    rw [← foldl_feistelRoundOnData, ← horder, List.foldl_map]
  refine hlayers.congr fun D => ?_
  rw [hfold, onFblk_onFblk, onFblk_onFblk, onFblk_onFblk]
  simp only [onHalves_onHalves]
  rfl

theorem subkeys_in_order (ks : Vector Subkey 16) :
    ([0, 1, 2, 3, 4, 5, 6, 7, 8, 9, 10, 11, 12, 13, 14, 15] : List (BitVec 4)).map (fun rnd => ks[rnd.toFin]) =
      ks.toList := by
  have horder : ([0, 1, 2, 3, 4, 5, 6, 7, 8, 9, 10, 11, 12, 13, 14, 15] : List (BitVec 4)) =
      List.ofFn fun i : Fin 16 => BitVec.ofFin i := by decide
  have hks : Vector.ofFn (fun i : Fin 16 => ks[i]) = ks := Vector.ext fun i hi => by simp
  rw [horder, List.map_ofFn]
  exact Vector.toList_ofFn.symm.trans (congrArg _ hks)

theorem statusWord_completed {s : State} (hfkv : s.fkv = true) (D : Block128) :
    statusWord { s with data := D, err := .ok, busy := false, done := true } =
      (0x102 ||| if s.skv then 0x200 else 0) ||| if s.ovr then 0x4 else 0 := by
  cases s.skv <;> cases s.ovr <;> simp [statusWord, hfkv, ErrCode.code]

/-- Settles O41: the layers are the steps of the block transform, with the rounds in the order of the subkeys. -/
theorem feistelLayersEqualTheBlockCommands : Obligations.FeistelLayersEqualTheBlockCommands := by
  unfold Obligations.FeistelLayersEqualTheBlockCommands
  intro s hfkv hfrk
  have hs := holdsSubkeys_subkeys hfkv hfrk
  have hforward := subkeys_in_order s.subkeys
  have hbackward : ([15, 14, 13, 12, 11, 10, 9, 8, 7, 6, 5, 4, 3, 2, 1, 0] : List (BitVec 4)).map
      (fun rnd => s.subkeys[rnd.toFin]) = s.subkeys.reverse.toList := by
    rw [Vector.toList_reverse, ← hforward]
    rfl
  refine ⟨hs.fEnc.exec_eq.trans (hs.feistelLayers hforward).execAll_eq.symm,
    hs.fDec.exec_eq.trans (hs.feistelLayers hbackward).execAll_eq.symm, fun i hi => ?_⟩
  rcases List.mem_pair.1 hi with rfl | rfl
  · exact ⟨_, hs.fEnc.exec_eq, statusWord_completed hfkv _⟩
  · exact ⟨_, hs.fDec.exec_eq, statusWord_completed hfkv _⟩

end Sys2Proof.Machine
end

section
/-! Multiplication in GF(2^8) is additive in each factor and associative (42_spn.md R202 to R204). -/

namespace Sys2Proof.Machine

/-- What a bit adds, k or nothing, is additive in the bit. -/
theorem ite_xor_ite {n : Nat} (b c : Bool) (x y k : BitVec n) :
    (if (b ^^ c) = true then x ^^^ y ^^^ k else x ^^^ y) =
      (if b = true then x ^^^ k else x) ^^^ (if c = true then y ^^^ k else y) := by
  cases b <;> cases c
  · rfl
  · exact BitVec.xor_assoc x y k
  · exact (by ac_rfl : x ^^^ y ^^^ k = x ^^^ k ^^^ y)
  · exact ((xor_cancel_right (x ^^^ y) k).symm.trans (by ac_rfl) : x ^^^ y = x ^^^ k ^^^ (y ^^^ k))

theorem xtime_xor (a b : Byte) : xtime (a ^^^ b) = xtime a ^^^ xtime b := by
  rw [xtime, BitVec.getLsbD_xor, BitVec.shiftLeft_xor_distrib]
  exact ite_xor_ite ..

/-- The loop is additive in what it adds up and in the multiplier. -/
theorem gmulLoop_xor_right (n : Nat) (a b c p q : Byte) :
    gmulLoop n a (b ^^^ c) (p ^^^ q) = gmulLoop n a b p ^^^ gmulLoop n a c q := by
  induction n generalizing a b c p q with
  | zero => rfl
  | succ n ih =>
    rw [gmulLoop, BitVec.getLsbD_xor, ite_xor_ite, BitVec.ushiftRight_xor_distrib, ih]
    rfl

/-- The loop is additive in what it adds up and in the multiplicand. -/
theorem gmulLoop_xor_left (n : Nat) (a a' b p q : Byte) :
    gmulLoop n (a ^^^ a') b (p ^^^ q) = gmulLoop n a b p ^^^ gmulLoop n a' b q := by
  induction n generalizing a a' b p q with
  | zero => rfl
  | succ n ih =>
    have hbit : (if b.getLsbD 0 then p ^^^ q ^^^ (a ^^^ a') else p ^^^ q) =
        (if b.getLsbD 0 then p ^^^ a else p) ^^^ (if b.getLsbD 0 then q ^^^ a' else q) := by
      split
      · ac_rfl
      · rfl
    rw [gmulLoop, hbit, xtime_xor, ih]
    rfl

theorem gmul_xor_right (a b c : Byte) : gmul a (b ^^^ c) = gmul a b ^^^ gmul a c := gmulLoop_xor_right 8 a b c 0 0

theorem gmul_xor_left (a b c : Byte) : gmul (a ^^^ b) c = gmul a c ^^^ gmul b c := gmulLoop_xor_left 8 a b c 0 0

/-- p, with bit i of b added where it is set. -/
def addBit (b p : Byte) (i : Fin 8) : Byte := if b.getLsbD i.val then p ^^^ 1 <<< i.val else p

theorem foldl_addBit : ∀ b : Byte, (List.finRange 8).foldl (addBit b) 0 = b := by decide

theorem map_zero_of_additive {f : Byte → Byte} (hf : ∀ a b, f (a ^^^ b) = f a ^^^ f b) : f 0 = 0 :=
  (hf 0 0).trans BitVec.xor_self

/-- Two additive functions of a byte that agree on the eight one-bit bytes are equal. -/
theorem eq_of_additive {f g : Byte → Byte} (hf : ∀ a b, f (a ^^^ b) = f a ^^^ f b)
    (hg : ∀ a b, g (a ^^^ b) = g a ^^^ g b) (h : ∀ i : Fin 8, f (1 <<< i.val) = g (1 <<< i.val)) (b : Byte) :
    f b = g b := by
  have hfold (l : List (Fin 8)) (p : Byte) (hp : f p = g p) : f (l.foldl (addBit b) p) = g (l.foldl (addBit b) p) := by
    induction l generalizing p with
    | nil => exact hp
    | cons i l ih =>
      apply ih
      unfold addBit
      split
      · rw [hf, hg, hp, h]
      · exact hp
  rw [← foldl_addBit b]
  exact hfold _ 0 ((map_zero_of_additive hf).trans (map_zero_of_additive hg).symm)

@[simp] theorem gmul_zero_left (b : Byte) : gmul 0#8 b = 0#8 :=
  map_zero_of_additive (f := (gmul · b)) fun a c => gmul_xor_left a c b

@[simp] theorem gmul_one_left (b : Byte) : gmul 1#8 b = b :=
  eq_of_additive (f := gmul 1) (g := id) (gmul_xor_right 1) (fun _ _ => rfl) (by decide) b

theorem gmul_xtime (a b : Byte) : gmul a (xtime b) = xtime (gmul a b) := by
  have hbits : ∀ i j : Fin 8, gmul (1 <<< j.val) (xtime (1 <<< i.val)) = xtime (gmul (1 <<< j.val) (1 <<< i.val)) := by
    decide
  have hbit (i : Fin 8) : gmul a (xtime (1 <<< i.val)) = xtime (gmul a (1 <<< i.val)) := by
    refine eq_of_additive (f := fun a => gmul a _) (g := fun a => xtime (gmul a _)) ?_ ?_ (hbits i) a
    · exact fun a c => gmul_xor_left a c _
    · exact fun a c => by rw [gmul_xor_left, xtime_xor]
  refine eq_of_additive (f := fun b => gmul a (xtime b)) (g := fun b => xtime (gmul a b)) ?_ ?_ hbit b
  · exact fun b c => by rw [xtime_xor, gmul_xor_right]
  · exact fun b c => by rw [gmul_xor_right, xtime_xor]

/-- Multiplying by a commutes with the loop's every step. -/
theorem gmulLoop_gmul (n : Nat) (a b c p : Byte) : gmulLoop n (gmul a b) c (gmul a p) = gmul a (gmulLoop n b c p) := by
  induction n generalizing b c p with
  | zero => rfl
  | succ n ih =>
    have hbit : (if c.getLsbD 0 then gmul a p ^^^ gmul a b else gmul a p) =
        gmul a (if c.getLsbD 0 then p ^^^ b else p) := by
      rw [apply_ite (gmul a), gmul_xor_right]
    rw [gmulLoop, hbit, ← gmul_xtime, ih]
    rfl

theorem gmul_assoc (a b c : Byte) : gmul (gmul a b) c = gmul a (gmul b c) := gmulLoop_gmul 8 a b c 0

end Sys2Proof.Machine
end

section
/-! The layers of the SPN engine and their inverses (42_spn.md R206 to R214), under the constraints on its tables. -/

namespace Sys2Proof.Machine

/-! ## SubBytes (R206 to R208) -/

theorem byteLookup_invSbox_sbox {t : SpnTables} (ht : spnTablesOk t = true) (a : Byte) :
    byteLookup t.invSbox (byteLookup t.sbox a) = a := by
  rw [spnTablesOk, Bool.and_eq_true] at ht
  obtain ⟨hsbox, -⟩ := ht
  simpa using List.all_eq_true.1 hsbox a.toNat (List.mem_range.2 a.isLt)

theorem invSubBytes_subBytes {t : SpnTables} (ht : spnTablesOk t = true) (S : Block128) :
    invSubBytes t (subBytes t S) = S := by
  apply eq_of_cell_eq
  intro r hr c hc
  rw [invSubBytes, cell_ofCells _ r c hr hc, subBytes, cell_ofCells _ r c hr hc, byteLookup_invSbox_sbox ht]

/-! ## ShiftRows (R209, R210) -/

theorem cell_shiftRows (S : Block128) {r c : Nat} (hr : r < 4) (hc : c < 4) :
    cell (shiftRows S) r c = cell S r ((c + r) % 4) := cell_ofCells _ r c hr hc

theorem invShiftRows_shiftRows (S : Block128) : invShiftRows (shiftRows S) = S := by
  apply eq_of_cell_eq
  intro r hr c hc
  rw [invShiftRows, cell_ofCells _ r c hr hc, cell_shiftRows S hr (Nat.mod_lt _ (by decide))]
  congr 1
  omega

/-- Row r moves left by 4 r, that is not at all. -/
theorem shiftRows_four_times (S : Block128) : shiftRows (shiftRows (shiftRows (shiftRows S))) = S := by
  apply eq_of_cell_eq
  intro r hr c hc
  have hmod (n : Nat) : n % 4 < 4 := Nat.mod_lt n (by decide)
  rw [cell_shiftRows _ hr hc, cell_shiftRows _ hr (hmod _), cell_shiftRows _ hr (hmod _), cell_shiftRows _ hr (hmod _)]
  congr 1
  omega

/-! ## MixColumns (R211 to R213) -/

/-- The entry of row r and column k (R211). -/
def matrixEntry (m : Matrix4x4) (r k : Nat) : Byte := (m.getD r (Vector.replicate 4 0)).getD k 0

theorem rowTimesColumn_eq (m : Matrix4x4) (r : Nat) (x : Nat → Byte) :
    rowTimesColumn m r x = gmul (matrixEntry m r 0) (x 0) ^^^ gmul (matrixEntry m r 1) (x 1) ^^^
      gmul (matrixEntry m r 2) (x 2) ^^^ gmul (matrixEntry m r 3) (x 3) := by
  simp [rowTimesColumn, matrixEntry, getD_of_lt]

theorem rowTimesColumn_congr (m : Matrix4x4) (r : Nat) {x y : Nat → Byte} (h : ∀ k < 4, x k = y k) :
    rowTimesColumn m r x = rowTimesColumn m r y := by
  simp [rowTimesColumn, h]

/-- A row times the product of a matrix and a column is the row of the matrices' product times the column. -/
theorem rowTimesColumn_rowTimesColumn (m m' : Matrix4x4) (r : Nat) (x : Nat → Byte) :
    rowTimesColumn m r (fun k => rowTimesColumn m' k x) =
      gmul (rowTimesColumn m r fun k => matrixEntry m' k 0) (x 0) ^^^
      gmul (rowTimesColumn m r fun k => matrixEntry m' k 1) (x 1) ^^^
      gmul (rowTimesColumn m r fun k => matrixEntry m' k 2) (x 2) ^^^
      gmul (rowTimesColumn m r fun k => matrixEntry m' k 3) (x 3) := by
  simp only [rowTimesColumn_eq, gmul_xor_left, gmul_xor_right, gmul_assoc]
  ac_rfl

theorem invMix_times_mix {t : SpnTables} (ht : spnTablesOk t = true) {r c : Nat} (hr : r < 4) (hc : c < 4) :
    rowTimesColumn t.invMix r (fun k => matrixEntry t.mix k c) = if r = c then 1 else 0 := by
  rw [spnTablesOk, Bool.and_eq_true] at ht
  obtain ⟨-, hmix⟩ := ht
  exact beq_iff_eq.1 (List.all_eq_true.1 (List.all_eq_true.1 hmix r (List.mem_range.2 hr)) c (List.mem_range.2 hc))

theorem rowTimesColumn_invMix_mix {t : SpnTables} (ht : spnTablesOk t = true) {r : Nat} (hr : r < 4) (x : Nat → Byte) :
    rowTimesColumn t.invMix r (fun k => rowTimesColumn t.mix k x) = x r := by
  rw [rowTimesColumn_rowTimesColumn, invMix_times_mix ht hr (by decide), invMix_times_mix ht hr (by decide),
    invMix_times_mix ht hr (by decide), invMix_times_mix ht hr (by decide)]
  obtain rfl | rfl | rfl | rfl : r = 0 ∨ r = 1 ∨ r = 2 ∨ r = 3 := by omega
  all_goals simp

theorem invMixColumns_mixColumns {t : SpnTables} (ht : spnTablesOk t = true) (S : Block128) :
    invMixColumns t (mixColumns t S) = S := by
  apply eq_of_cell_eq
  intro r hr c hc
  have hmix (k : Nat) (hk : k < 4) : cell (mixColumns t S) k c = rowTimesColumn t.mix k fun j => cell S j c :=
    cell_ofCells _ k c hk hc
  rw [invMixColumns, cell_ofCells _ r c hr hc, rowTimesColumn_congr _ _ hmix]
  exact rowTimesColumn_invMix_mix ht hr _

/-! ## The block transform (R230 to R232) -/

theorem addRoundKey_addRoundKey (S rk : Block128) : addRoundKey (addRoundKey S rk) rk = S := xor_cancel_right S rk

/-- The layers of a round without its key and its mixing, undone. -/
theorem invSubBytes_invShiftRows {t : SpnTables} (ht : spnTablesOk t = true) (S : Block128) :
    invSubBytes t (invShiftRows (shiftRows (subBytes t S))) = S := by
  rw [invShiftRows_shiftRows, invSubBytes_subBytes ht]

/-- Decryption holds the block between its rounds after SubBytes and ShiftRows, where encryption holds it before them;
there round n undoes round n. -/
theorem spnInvRound_spnRound {t : SpnTables} (ht : spnTablesOk t = true) (w : Vector Word 44) (S : Block128) (n : Nat) :
    spnInvRound t w (shiftRows (subBytes t (spnRound t w S n))) n = shiftRows (subBytes t S) := by
  rw [spnInvRound, invSubBytes_invShiftRows ht, spnRound, addRoundKey_addRoundKey, invMixColumns_mixColumns ht]

theorem spnDec_spnEnc {t : SpnTables} (ht : spnTablesOk t = true) (w : Vector Word 44) (S : Block128) :
    spnDec t w (spnEnc t w S) = S := by
  have hrounds := foldl_reverse_foldl (c := fun S => shiftRows (subBytes t S)) (spnInvRound_spnRound ht w)
    [1, 2, 3, 4, 5, 6, 7, 8, 9] (addRoundKey S (roundKey w 0))
  rw [spnDec, spnEnc, addRoundKey_addRoundKey]
  simp only [List.reverse_cons, List.reverse_nil, List.nil_append, List.cons_append] at hrounds
  rw [hrounds, invSubBytes_invShiftRows ht, addRoundKey_addRoundKey]

theorem spnTablesOk_default : spnTablesOk spnTables = true := by decide +kernel

end Sys2Proof.Machine
end

section
/-! The commands undo each other on the machine (41_feistel.md R162 to R166; 42_spn.md R242, R244 to R248). -/

namespace Sys2Proof.Machine

/-- SKV = 1 and SRK holds the words ws. -/
structure HoldsExpandedKey (s : State) (ws : Vector Word 44) : Prop where
  skv : s.skv = true
  srk : ∀ j : Fin 44, s.srk[j] = some ws[j]

theorem holdsExpandedKey_expandedKey {s : State} (hskv : s.skv = true) (hsrk : ∀ j : Fin 44, s.srk[j].isSome = true) :
    HoldsExpandedKey s s.expandedKey := by
  refine ⟨hskv, fun j => ?_⟩
  obtain ⟨w, hw⟩ := Option.isSome_iff_exists.1 (hsrk j)
  rw [hw, ← expandedWord_of_some hw]
  simp [State.expandedKey]

namespace HoldsExpandedKey

variable {s : State} {ws : Vector Word 44}

theorem of_sameButData {u : State} (h : HoldsExpandedKey s ws) (hu : SameButData u s) : HoldsExpandedKey u ws :=
  ⟨hu.skv_eq.trans h.skv, hu.srk_eq ▸ h.srk⟩

theorem full_srk (h : HoldsExpandedKey s ws) : full s.srk = true :=
  (full_iff _).2 fun j => by rw [h.srk j]; rfl

/-- A block command on filled round keys draws no free value. -/
theorem withSpnSchedule_block (h : HoldsExpandedKey s ws) (block : Vector Word 44 → Block128 → Block128) :
    withSpnSchedule (fun s => (s.setData (block s.expandedKey s.data)).drew !(full s.srk)) s =
      .next (finish .ok (s.setData (block ws s.data))) := by
  rw [withSpnSchedule_valid h.skv, expandedKey_of_some h.srk, h.full_srk]
  rfl

theorem sEnc (h : HoldsExpandedKey s ws) : ActsOnData s [.sEnc] (spnEnc spnTables ws) :=
  .of_exec fun _ hu => (h.of_sameButData hu).withSpnSchedule_block (spnEnc spnTables)

theorem sDec (h : HoldsExpandedKey s ws) : ActsOnData s [.sDec] (spnDec spnTables ws) :=
  .of_exec fun _ hu => (h.of_sameButData hu).withSpnSchedule_block (spnDec spnTables)

end HoldsExpandedKey

theorem actsOnData_sSub (s : State) : ActsOnData s [.sSub] (subBytes spnTables) := .of_exec fun _ _ => rfl
theorem actsOnData_sIsub (s : State) : ActsOnData s [.sIsub] (invSubBytes spnTables) := .of_exec fun _ _ => rfl
theorem actsOnData_sShr (s : State) : ActsOnData s [.sShr] shiftRows := .of_exec fun _ _ => rfl
theorem actsOnData_sIshr (s : State) : ActsOnData s [.sIshr] invShiftRows := .of_exec fun _ _ => rfl
theorem actsOnData_sMix (s : State) : ActsOnData s [.sMix] (mixColumns spnTables) := .of_exec fun _ _ => rfl
theorem actsOnData_sImix (s : State) : ActsOnData s [.sImix] (invMixColumns spnTables) := .of_exec fun _ _ => rfl

/-- Settles O55: for both engines the decryption is the inverse function of DATA. -/
theorem decryptionRestoresTheState : Obligations.DecryptionRestoresTheState := by
  unfold Obligations.DecryptionRestoresTheState
  refine fun s => ⟨fun hfkv hfrk => ?_, fun hskv hsrk => ?_⟩
  · have hs := holdsSubkeys_subkeys hfkv hfrk
    refine (hs.fEnc.append hs.fDec).execAll_eq_of_eq_self fun D => ?_
    rw [onFblk_onFblk]
    exact onFblk_eq_self (feistelBlock_reverse (feistelTablesSound feistelTablesOk_default) · _) D
  · have hs := holdsExpandedKey_expandedKey hskv hsrk
    exact (hs.sEnc.append hs.sDec).execAll_eq_of_eq_self (spnDec_spnEnc spnTablesOk_default _)

/-- Settles O56: each sequence is a function of DATA that is the identity. -/
theorem layerCommandsUndoEachOther : Obligations.LayerCommandsUndoEachOther := by
  unfold Obligations.LayerCommandsUndoEachOther
  intro s is his
  have ht := feistelTablesSound feistelTablesOk_default
  have hsub := invSubBytes_subBytes spnTablesOk_default
  have hmix := invMixColumns_mixColumns spnTablesOk_default
  have hblock {f g : Block64 → Block64} (h : ∀ x, g (f x) = x) (D : Block128) : onFblk g (onFblk f D) = D :=
    (onFblk_onFblk g f D).trans (onFblk_eq_self h D)
  have hswap (x : Block64) : onHalves Prod.swap (onHalves Prod.swap x) = x :=
    (onHalves_onHalves _ _ x).trans (joinHalves_halves x)
  simp only [List.mem_cons, List.not_mem_nil, or_false] at his
  obtain rfl | rfl | rfl | rfl | rfl | rfl | rfl := his
  · exact ((actsOnData_fIp s).append (actsOnData_fFp s)).execAll_eq_of_eq_self (hblock ht.perm_fp_ip)
  · exact ((actsOnData_fFp s).append (actsOnData_fIp s)).execAll_eq_of_eq_self (hblock ht.perm_ip_fp)
  · exact ((actsOnData_fSwap s).append (actsOnData_fSwap s)).execAll_eq_of_eq_self (hblock hswap)
  · exact ((actsOnData_sSub s).append (actsOnData_sIsub s)).execAll_eq_of_eq_self hsub
  · exact ((actsOnData_sShr s).append (actsOnData_sIshr s)).execAll_eq_of_eq_self invShiftRows_shiftRows
  · exact ((actsOnData_sMix s).append (actsOnData_sImix s)).execAll_eq_of_eq_self hmix
  · have htwice := (actsOnData_sShr s).append (actsOnData_sShr s)
    exact (htwice.append htwice).execAll_eq_of_eq_self shiftRows_four_times

end Sys2Proof.Machine
end

section
/-! The field GF(2^8) of the SPN engine (42_spn.md R201 to R206): the laws of gmul, the reduction modulo 0x11B, and the
default S-box from the inverses. -/

namespace Sys2Proof.Machine

/-! ## The laws of multiplication (R204) -/

theorem gmul_comm (a b : Byte) : gmul a b = gmul b a := by
  have hbits : ∀ i j : Fin 8, gmul (1 <<< j.val) (1 <<< i.val) = gmul (1 <<< i.val) (1 <<< j.val) := by decide
  have hbit (i : Fin 8) : gmul a (1 <<< i.val) = gmul (1 <<< i.val) a :=
    eq_of_additive (f := (gmul · (1 <<< i.val))) (g := gmul (1 <<< i.val)) (fun a c => gmul_xor_left a c _)
      (gmul_xor_right _) (hbits i) a
  exact eq_of_additive (f := gmul a) (g := (gmul · a)) (gmul_xor_right a) (fun b c => gmul_xor_left b c a) hbit b

theorem gmul_two_left (b : Byte) : gmul 2 b = xtime b := by
  have hone : gmul b 1 = b := (gmul_comm b 1).trans (gmul_one_left b)
  calc gmul 2 b = gmul b (xtime 1) := gmul_comm 2 b
    _ = xtime b := by rw [gmul_xtime, hone]

theorem gmul_three_left (b : Byte) : gmul 3 b = xtime b ^^^ b := by
  have hthree : (3 : Byte) = 2 ^^^ 1 := rfl
  rw [hthree, gmul_xor_left, gmul_two_left]
  exact congrArg (xtime b ^^^ ·) (gmul_one_left b)

/-! ## The inverse, from the default S-box (R204, R205) -/

/-- The affine map of b: bit i adds up the bits i, i + 4, i + 5, i + 6 and i + 7 of b, cyclically, and bit i of 0x63
(R205). -/
def affine (b : Byte) : Byte :=
  b ^^^ b.rotateRight 4 ^^^ b.rotateRight 5 ^^^ b.rotateRight 6 ^^^ b.rotateRight 7 ^^^ 0x63

/-- What the affine map takes to b. -/
def affinePreimage (b : Byte) : Byte := b.rotateRight 2 ^^^ b.rotateRight 5 ^^^ b.rotateRight 7 ^^^ 0x05

theorem affine_affinePreimage : ∀ b : Byte, affine (affinePreimage b) = b := by decide

/-- The inverse of a nonzero byte. The default S-box is the affine map of it (R205), so it stands in that table. -/
def fieldInverse (a : Byte) : Byte := affinePreimage (byteLookup tblSbox a)

theorem gmul_fieldInverse : ∀ a : Byte, a ≠ 0 → gmul a (fieldInverse a) = 1 := by decide +kernel

/-- Settles O42: the laws are checked on the one-bit bytes and carried over by additivity; the inverse is read
off the S-box. -/
theorem galoisFieldLaws : Obligations.GaloisFieldLaws := by
  unfold Obligations.GaloisFieldLaws
  exact ⟨gmul_comm, gmul_zero_left, gmul_one_left, gmul_two_left, gmul_three_left, gmul_xor_right, gmul_xor_left,
    fun a ha => ⟨fieldInverse a, gmul_fieldInverse a ha⟩⟩

/-! ## The reduction modulo 0x11B (R201, R203) -/

/-- p plus the polynomial x shifted by i, where bit i of y is set. -/
def addShifted (x : BitVec 16) (y : Byte) (p : BitVec 16) (i : Nat) : BitVec 16 :=
  if y.getLsbD i then p ^^^ (x <<< i) else p

/-- The unreduced product of the polynomials x and y, in 16 bits. -/
def polyMul (x : BitVec 16) (y : Byte) : BitVec 16 := (List.range 8).foldl (addShifted x y) 0

theorem foldl_addShifted_xor_right (x : BitVec 16) (y z : Byte) (is : List Nat) (p q : BitVec 16) :
    is.foldl (addShifted x (y ^^^ z)) (p ^^^ q) = is.foldl (addShifted x y) p ^^^ is.foldl (addShifted x z) q := by
  induction is generalizing p q with
  | nil => rfl
  | cons i is ih =>
    have hstep : addShifted x (y ^^^ z) (p ^^^ q) i = addShifted x y p i ^^^ addShifted x z q i := by
      rw [addShifted, BitVec.getLsbD_xor]
      exact ite_xor_ite ..
    rw [List.foldl_cons, hstep, ih]
    rfl

theorem foldl_addShifted_xor_left (x x' : BitVec 16) (y : Byte) (is : List Nat) (p q : BitVec 16) :
    is.foldl (addShifted (x ^^^ x') y) (p ^^^ q) = is.foldl (addShifted x y) p ^^^ is.foldl (addShifted x' y) q := by
  induction is generalizing p q with
  | nil => rfl
  | cons i is ih =>
    have hstep : addShifted (x ^^^ x') y (p ^^^ q) i = addShifted x y p i ^^^ addShifted x' y q i := by
      unfold addShifted
      split
      · rw [BitVec.shiftLeft_xor_distrib]
        ac_rfl
      · rfl
    rw [List.foldl_cons, hstep, ih]
    rfl

theorem polyMul_xor_right (x : BitVec 16) (y z : Byte) : polyMul x (y ^^^ z) = polyMul x y ^^^ polyMul x z :=
  foldl_addShifted_xor_right x y z _ 0 0

theorem polyMul_xor_left (x x' : BitVec 16) (y : Byte) : polyMul (x ^^^ x') y = polyMul x y ^^^ polyMul x' y :=
  foldl_addShifted_xor_left x x' y _ 0 0

/-- A property of the one-bit bytes that XOR keeps is a property of every byte. -/
theorem byte_induction {P : Byte → Prop} (hbit : ∀ i : Fin 8, P ((1 : Byte) <<< i.val))
    (hxor : ∀ a b, P a → P b → P (a ^^^ b)) (b : Byte) : P b := by
  have hzero : P 0 := hxor _ _ (hbit 0) (hbit 0)
  have hfold (is : List (Fin 8)) (p : Byte) (hp : P p) : P (is.foldl (addBit b) p) := by
    induction is generalizing p with
    | nil => exact hp
    | cons i is ih =>
      apply ih
      unfold addBit
      split
      · exact hxor _ _ hp (hbit i)
      · exact hp
  exact foldl_addBit b ▸ hfold _ 0 hzero

/-- The reduced and the unreduced product of a and b differ by a multiple of 0x11B. -/
def CongruentProducts (a b : Byte) : Prop :=
  ∃ q : Byte, polyMul (a.setWidth 16) b = (gmul a b).setWidth 16 ^^^ polyMul 0x11B q

theorem xor_of_multiples {g g' : BitVec 16} {q q' : Byte} :
    g ^^^ polyMul 0x11B q ^^^ (g' ^^^ polyMul 0x11B q') = g ^^^ g' ^^^ polyMul 0x11B (q ^^^ q') := by
  rw [polyMul_xor_right]
  ac_rfl

theorem CongruentProducts.xor_right {a b c : Byte} (h : CongruentProducts a b) (h' : CongruentProducts a c) :
    CongruentProducts a (b ^^^ c) := by
  obtain ⟨q, hq⟩ := h
  obtain ⟨q', hq'⟩ := h'
  exact ⟨q ^^^ q', by rw [polyMul_xor_right, hq, hq', xor_of_multiples, gmul_xor_right, BitVec.setWidth_xor]⟩

theorem CongruentProducts.xor_left {a b c : Byte} (h : CongruentProducts a c) (h' : CongruentProducts b c) :
    CongruentProducts (a ^^^ b) c := by
  obtain ⟨q, hq⟩ := h
  obtain ⟨q', hq'⟩ := h'
  exact ⟨q ^^^ q', by
    rw [BitVec.setWidth_xor, polyMul_xor_left, hq, hq', xor_of_multiples, gmul_xor_left, BitVec.setWidth_xor]⟩

/-- The quotient of x^k by the polynomial 0x11B, for k up to 14. That of x^14 is 0x46, and each lower one is the next
without its last bit, as the quotients of a long division are. -/
def powerQuotient (k : Nat) : Byte := 0x46 >>> (14 - k)

theorem polyMul_one_bit : ∀ i j : Fin 8, polyMul (((1 : Byte) <<< i.val).setWidth 16) ((1 : Byte) <<< j.val) =
    (gmul ((1 : Byte) <<< i.val) ((1 : Byte) <<< j.val)).setWidth 16 ^^^
      polyMul 0x11B (powerQuotient (i.val + j.val)) := by decide

theorem congruentProducts (a b : Byte) : CongruentProducts a b := by
  have hbits (i j : Fin 8) : CongruentProducts ((1 : Byte) <<< i.val) ((1 : Byte) <<< j.val) :=
    ⟨_, polyMul_one_bit i j⟩
  have hbit (j : Fin 8) : CongruentProducts a ((1 : Byte) <<< j.val) :=
    byte_induction (P := (CongruentProducts · _)) (hbits · j) (fun _ _ => .xor_left) a
  exact byte_induction hbit (fun _ _ => .xor_right) b

/-- Settles O43: checked on the one-bit bytes; both products and the multiples of 0x11B are additive. -/
theorem gmulIsTheReducedProduct : Obligations.GmulIsTheReducedProduct := by
  unfold Obligations.GmulIsTheReducedProduct
  exact congruentProducts

/-! ## The default S-box (R205, R206) -/

theorem getLsbD_affine : ∀ (b : Byte) (i : Fin 8), (affine b).getLsbD i.val =
    (b.getLsbD i.val ^^ b.getLsbD ((i.val + 4) % 8) ^^ b.getLsbD ((i.val + 5) % 8) ^^ b.getLsbD ((i.val + 6) % 8) ^^
      b.getLsbD ((i.val + 7) % 8) ^^ (0x63 : Byte).getLsbD i.val) := by decide +kernel

theorem byteLookup_tblSbox (a : Byte) : byteLookup tblSbox a = affine (fieldInverse a) :=
  (affine_affinePreimage _).symm

theorem byteLookup_tblInvSbox_tblSbox : Function.LeftInverse (byteLookup tblInvSbox) (byteLookup tblSbox) :=
  byteLookup_invSbox_sbox spnTablesOk_default

/-- An injective map of the bytes reaches every byte, so the table of inverses undoes the S-box the other way round
too. -/
theorem byteLookup_tblSbox_tblInvSbox : Function.RightInverse (byteLookup tblInvSbox) (byteLookup tblSbox) :=
  byteLookup_tblInvSbox_tblSbox.rightInverse_of_surjective
    (Finite.surjective_of_injective byteLookup_tblInvSbox_tblSbox.injective)

/-- Settles O44: every entry is the affine map of `fieldInverse`, and an injective table is a bijection. -/
theorem sboxConstruction : Obligations.SboxConstruction := by
  unfold Obligations.SboxConstruction
  refine ⟨rfl, fun a ha => ⟨fieldInverse a, gmul_fieldInverse a ha, fun i => ?_⟩,
    fun a => ⟨byteLookup_tblInvSbox_tblSbox a, byteLookup_tblSbox_tblInvSbox a⟩⟩
  rw [byteLookup_tblSbox, getLsbD_affine]

end Sys2Proof.Machine
end

section
/-! The byte and word operations of the key expansion (42_spn.md R220 to R225). -/

namespace Sys2Proof.Machine

/-- Word i of the first n is the word the recursion gives from the words before it. -/
theorem getD_expandedWords (t : SpnTables) (key : Block128) {i n : Nat} (hi : i < n) :
    (expandedWords t key n).getD i 0 = nextWord t key (expandedWords t key i) i := by
  induction n with
  | zero => omega
  | succ n ih =>
    have hlen := expandedWords_length t key n
    rw [expandedWords]
    obtain hi | rfl : i < n ∨ i = n := by omega
    · rw [List.getD_append _ _ _ _ (by omega), ih hi]
    · rw [List.getD_append_right _ _ _ _ (by omega), hlen, Nat.sub_self, List.getD_cons_zero]

theorem getD_keyExpansion (t : SpnTables) (key : Block128) (i : Nat) :
    (keyExpansion t key).getD i 0 = (expandedWords t key 44).getD i 0 := by
  simp [keyExpansion, Vector.getD, List.getD]

/-- Word i is the word the recursion gives from the words of the expansion (R224, R225). -/
theorem getD_keyExpansion_eq (t : SpnTables) (key : Block128) {i : Nat} (hi : i < 44) :
    (keyExpansion t key).getD i 0 = if i < 4 then wordOf key i else
      (keyExpansion t key).getD (i - 4) 0 ^^^ expandTemp t i ((keyExpansion t key).getD (i - 1) 0) := by
  have hword (j : Nat) (hj : j < i) : (expandedWords t key i).getD j 0 = (expandedWords t key 44).getD j 0 := by
    rw [getD_expandedWords t key hj, getD_expandedWords t key (hj.trans hi)]
  simp only [getD_keyExpansion]
  rw [getD_expandedWords t key hi, nextWord]
  split
  · rfl
  · rw [hword _ (by omega), hword _ (by omega)]

/-- Settles O50: S_KX is the effect that writes `keyExpansion`, whose words the recursion gives. -/
theorem keyExpansionCommand : Obligations.KeyExpansionCommand := by
  unfold Obligations.KeyExpansionCommand
  intro s
  refine ⟨keyExpansion spnTables s.key, rfl, fun j => ?_, fun i h4 h44 => ?_⟩
  · rw [getD_keyExpansion_eq _ _ (by omega), if_pos j.isLt]
    rfl
  · rw [getD_keyExpansion_eq _ _ h44, if_neg (by omega)]
    rfl

theorem wbyte_xor (u v : Word) (k : Nat) : wbyte (u ^^^ v) k = wbyte u k ^^^ wbyte v k := BitVec.extractLsb'_xor

theorem wbyte_rotWord (w : Word) {k : Nat} (hk : k < 4) : wbyte (rotWord w) k = wbyte w ((k + 1) % 4) := by
  obtain h | rfl : k < 3 ∨ k = 3 := by omega
  · have hplace : 24 - 8 * k - 8 = 24 - 8 * ((k + 1) % 4) := by omega
    rw [rotWord, wbyte, BitVec.extractLsb'_append_eq_of_le (by omega),
      BitVec.extractLsb'_extractLsb'_of_le (by omega), hplace, wbyte]
  · exact BitVec.extractLsb'_append_eq_right

theorem wbyte_append_zero (b : Byte) {k : Nat} (hk : k < 4) :
    wbyte (b ++ (0 : BitVec 24)) k = if k = 0 then b else 0 := by
  split
  case isTrue h => exact h ▸ BitVec.extractLsb'_append_eq_left
  case isFalse h =>
    rw [wbyte, BitVec.extractLsb'_append_eq_of_add_le (by omega)]
    exact BitVec.extractLsb'_zero

theorem wbyte_addRcon (t : SpnTables) (w : Word) (j : Fin 10) {k : Nat} (hk : k < 4) :
    wbyte (addRcon t w (j.val + 1)) k = wbyte w k ^^^ if k = 0 then t.rcon[j] else 0 := by
  rw [addRcon, wbyte_xor, wbyte_append_zero _ hk, Nat.add_sub_cancel, getD_of_lt _ _ j.isLt]
  rfl

/-- Settles O51: byte by byte, RotWord reads the next byte, SubWord the table, and the constant stands in byte 0. -/
theorem keyExpansionWordSteps : Obligations.KeyExpansionWordSteps := by
  unfold Obligations.KeyExpansionWordSteps
  refine ⟨fun w k => wbyte_rotWord w k.isLt, fun w k => wbyte_wordOfBytes _ k k.isLt, fun w j => ⟨?_, fun k hk => ?_⟩,
    rfl, by decide⟩
  · exact wbyte_addRcon spnTables w j (by decide)
  · rw [wbyte_addRcon _ _ _ k.isLt, if_neg (show k.val ≠ 0 from Fin.val_ne_of_ne hk)]
    exact BitVec.xor_zero

end Sys2Proof.Machine
end

section
/-! The commands of the SPN engine (42_spn.md section 2: R240 to R250), each as a function of DATA. -/

namespace Sys2Proof.Machine

/-! ## The layers of bytes and rows (R207 to R210) -/

/-- Settles O45: both commands look up every cell, and the second table undoes the first. -/
theorem substitutionCommands : Obligations.SubstitutionCommands := by
  unfold Obligations.SubstitutionCommands
  refine ⟨fun s => ⟨⟨_, (actsOnData_sSub s).exec_eq, fun r c => ?_⟩, ⟨_, (actsOnData_sIsub s).exec_eq, fun r c => ?_⟩⟩,
    fun t ht => invSubBytes_subBytes ht⟩
  · exact cell_ofCells _ _ _ r.isLt c.isLt
  · exact cell_ofCells _ _ _ r.isLt c.isLt

theorem cell_invShiftRows (S : Block128) {r c : Nat} (hr : r < 4) (hc : c < 4) :
    cell (invShiftRows S) r ((c + r) % 4) = cell S r c := by
  rw [invShiftRows, cell_ofCells _ _ _ hr (Nat.mod_lt _ (by decide))]
  congr 1
  omega

/-- Settles O46: each command moves the cells of a row, row 0 by 0. -/
theorem rowShiftCommands : Obligations.RowShiftCommands := by
  unfold Obligations.RowShiftCommands
  refine ⟨fun s => ⟨⟨_, (actsOnData_sShr s).exec_eq, fun r c => ?_⟩, ⟨_, (actsOnData_sIshr s).exec_eq, fun r c => ?_⟩⟩,
    fun S c => ?_, invShiftRows_shiftRows⟩
  · exact cell_shiftRows _ r.isLt c.isLt
  · exact cell_invShiftRows _ r.isLt c.isLt
  · rw [cell_shiftRows S (by decide) c.isLt, Nat.add_zero, Nat.mod_eq_of_lt c.isLt]

/-! ## The column mixes (R211 to R213) -/

/-- Row r + 1 is row r moved right by one, cyclically. -/
def Circulant (m : Matrix4x4) : Prop :=
  ∀ r : Fin 4, ∀ j < 4, matrixEntry m r ((r.val + j) % 4) = matrixEntry m 0 j

/-- The sum of four terms may begin with any of them. -/
theorem xor4_rotate (f : Nat → Byte) (r : Fin 4) :
    f 0 ^^^ f 1 ^^^ f 2 ^^^ f 3 = f r ^^^ f ((r.val + 1) % 4) ^^^ f ((r.val + 2) % 4) ^^^ f ((r.val + 3) % 4) := by
  have rotate (a b c d : Byte) : a ^^^ b ^^^ c ^^^ d = b ^^^ c ^^^ d ^^^ a := by ac_rfl
  fin_cases r
  · rfl
  · exact rotate ..
  · exact (rotate ..).trans (rotate ..)
  · exact (rotate ..).trans ((rotate ..).trans (rotate ..))

/-- A row of a circulant matrix times a column: coefficient j of the first row multiplies the byte j rows below. -/
theorem rowTimesColumn_of_circulant {m : Matrix4x4} (hm : Circulant m) (r : Fin 4) (x : Nat → Byte) :
    rowTimesColumn m r x = gmul (matrixEntry m 0 0) (x r) ^^^ gmul (matrixEntry m 0 1) (x ((r.val + 1) % 4)) ^^^
      gmul (matrixEntry m 0 2) (x ((r.val + 2) % 4)) ^^^ gmul (matrixEntry m 0 3) (x ((r.val + 3) % 4)) := by
  have hfirst : matrixEntry m r r = matrixEntry m 0 0 := by
    simpa [Nat.mod_eq_of_lt r.isLt] using hm r 0 (by decide)
  rw [rowTimesColumn_eq, xor4_rotate (fun k => gmul (matrixEntry m r k) (x k)) r, hfirst, hm r 1 (by decide),
    hm r 2 (by decide), hm r 3 (by decide)]

theorem circulant_tblMix : Circulant tblMix := by unfold Circulant; decide

theorem circulant_tblInvMix : Circulant tblInvMix := by unfold Circulant; decide

/-- Settles O47: both matrices are circulant, and their product is the identity. -/
theorem columnMixCommands : Obligations.ColumnMixCommands := by
  unfold Obligations.ColumnMixCommands
  refine ⟨fun s => ⟨⟨_, (actsOnData_sMix s).exec_eq, fun r c => ?_⟩, ⟨_, (actsOnData_sImix s).exec_eq, fun r c => ?_⟩⟩,
    fun t ht => invMixColumns_mixColumns ht⟩
  · exact (cell_ofCells _ _ _ r.isLt c.isLt).trans (rowTimesColumn_of_circulant circulant_tblMix r _)
  · exact (cell_ofCells _ _ _ r.isLt c.isLt).trans (rowTimesColumn_of_circulant circulant_tblInvMix r _)

/-! ## AddRoundKey (R214) -/

/-- SKV = 1 and the four words of round key n hold the words of rk. -/
structure HoldsRoundKey (s : State) (n : Nat) (rk : Block128) : Prop where
  skv : s.skv = true
  le_ten : n ≤ 10
  srk : ∀ c < 4, s.srk[4 * n + c]? = some (some (wordOf rk c))

namespace HoldsRoundKey

variable {s : State} {n : Nat} {rk : Block128}

theorem of_sameButData {u : State} (h : HoldsRoundKey s n rk) (hu : SameButData u s) : HoldsRoundKey u n rk :=
  ⟨hu.skv_eq.trans h.skv, h.le_ten, hu.srk_eq ▸ h.srk⟩

theorem index_lt (h : HoldsRoundKey s n rk) {c : Nat} (hc : c < 4) : 4 * n + c < 44 := by
  have := h.le_ten
  omega

theorem srk_getElem (h : HoldsRoundKey s n rk) {c : Nat} (hc : c < 4) :
    s.srk[4 * n + c]'(h.index_lt hc) = some (wordOf rk c) :=
  Vector.getElem_eq_iff.2 (h.srk c hc)

theorem roundKeyHeld (h : HoldsRoundKey s n rk) : roundKeyHeld n s = true := by
  refine List.all_eq_true.2 fun c hc => ?_
  have hc := List.mem_range.1 hc
  rw [getD_of_lt _ _ (h.index_lt hc), h.srk_getElem hc, Option.isSome_some]

theorem roundKey_expandedKey (h : HoldsRoundKey s n rk) : roundKey s.expandedKey n = rk := by
  apply eq_of_wordOf_eq
  intro c hc
  have hlt := h.index_lt hc
  rw [roundKey, wordOf_ofWords _ c hc, getD_of_lt _ _ hlt, State.expandedKey, Vector.getElem_ofFn]
  exact expandedWord_of_some (j := ⟨4 * n + c, hlt⟩) (h.srk_getElem hc)

theorem sArk {rnd : BitVec 4} (h : HoldsRoundKey s rnd.toNat rk) : ActsOnData s [.sArk rnd] (addRoundKey · rk) := by
  refine .of_exec fun u hu => ?_
  have hk := h.of_sameButData hu
  have hexec : exec (.sArk rnd) u =
    if 10 < rnd.toNat then fails .badRound u else withSpnSchedule (addRoundKeyEffect rnd.toNat) u := rfl
  rw [hexec, if_neg (Nat.not_lt.2 h.le_ten), withSpnSchedule_valid hk.skv, addRoundKeyEffect, hk.roundKey_expandedKey,
    hk.roundKeyHeld]
  rfl

end HoldsRoundKey

theorem wordOf_addRoundKey (S rk : Block128) (c : Nat) : wordOf (addRoundKey S rk) c = wordOf S c ^^^ wordOf rk c :=
  BitVec.extractLsb'_xor

theorem cell_addRoundKey (S rk : Block128) (r c : Nat) : cell (addRoundKey S rk) r c = cell S r c ^^^ cell rk r c :=
  BitVec.extractLsb'_xor

theorem exists_block_of_words (w : Fin 4 → Word) : ∃ v : Block128, ∀ c : Fin 4, wordOf v c = w c :=
  ⟨ofWords fun c => w (Fin.ofNat 4 c), fun c => by rw [wordOf_ofWords _ c c.isLt, Fin.ofNat_val_eq_self]⟩

/-- Settles O48: S_ARK applies `addRoundKey` to DATA, a XOR, which undoes itself. -/
theorem addRoundKeyCommand : Obligations.AddRoundKeyCommand := by
  unfold Obligations.AddRoundKeyCommand
  intro s rnd w hrnd hskv hw
  obtain ⟨rk, hrk⟩ := exists_block_of_words w
  have hs : HoldsRoundKey s rnd.toNat rk := ⟨hskv, hrnd, fun c hc => by rw [hrk ⟨c, hc⟩]; exact hw ⟨c, hc⟩⟩
  refine ⟨⟨_, hs.sArk.exec_eq, fun c => ?_, fun r c => ?_⟩, ?_⟩
  · rw [wordOf_addRoundKey, hrk]
  · rw [cell_addRoundKey, ← wbyte_wordOf rk r c r.isLt c.isLt, hrk]
  · exact (hs.sArk.append hs.sArk).execAll_eq_of_eq_self (addRoundKey_addRoundKey · rk)

/-! ## The block commands and their layers (R230, R231, R241, R242, R250) -/

/-- Settles O52: both commands are the block transform of DATA. -/
theorem spnBlockCommands : Obligations.SpnBlockCommands := by
  unfold Obligations.SpnBlockCommands
  intro s ws hskv hsrk
  have hs : HoldsExpandedKey s ws := ⟨hskv, hsrk⟩
  exact ⟨hs.sEnc.exec_eq, hs.sDec.exec_eq⟩

/-- Settles O53: the layers of decryption undo those of encryption in reverse order. -/
theorem spnDecryptionInverts : Obligations.SpnDecryptionInverts := by
  unfold Obligations.SpnDecryptionInverts
  exact ⟨spnTablesOk_default, fun t ht => spnDec_spnEnc ht⟩

theorem ActsOnData.append_flatMap {α : Type} {s : State} {is : List Instr} {f : Block128 → Block128}
    {c : α → List Instr} {r : Block128 → α → Block128} (h : ActsOnData s is f) {as : List α}
    (hc : ∀ a ∈ as, ActsOnData s (c a) fun D => r D a) :
    ActsOnData s (is ++ as.flatMap c) fun D => as.foldl r (f D) := by
  induction as generalizing is f with
  | nil => simpa using h
  | cons a as ih =>
    obtain ⟨ha, has⟩ := List.forall_mem_cons.1 hc
    simpa using ih (h.append ha) has

namespace HoldsExpandedKey

variable {s : State} {ws : Vector Word 44}

theorem holdsRoundKey (h : HoldsExpandedKey s ws) {n : Nat} (hn : n ≤ 10) : HoldsRoundKey s n (roundKey ws n) := by
  refine ⟨h.skv, hn, fun c hc => ?_⟩
  have hlt : 4 * n + c < 44 := by omega
  rw [roundKey, wordOf_ofWords _ c hc, getD_of_lt _ _ hlt, Vector.getElem?_eq_getElem hlt]
  exact congrArg some (h.srk ⟨_, hlt⟩)

theorem sArk (h : HoldsExpandedKey s ws) {rnd : BitVec 4} (hrnd : rnd.toNat ≤ 10) :
    ActsOnData s [.sArk rnd] (addRoundKey · (roundKey ws rnd.toNat)) :=
  (h.holdsRoundKey hrnd).sArk

theorem encRound (h : HoldsExpandedKey s ws) {rnd : BitVec 4} (hrnd : rnd.toNat ≤ 10) :
    ActsOnData s [.sSub, .sShr, .sMix, .sArk rnd] fun D => spnRound spnTables ws D rnd.toNat := by
  have hround := (actsOnData_sSub s).append ((actsOnData_sShr s).append ((actsOnData_sMix s).append (h.sArk hrnd)))
  exact hround.congr fun _ => rfl

theorem decRound (h : HoldsExpandedKey s ws) {rnd : BitVec 4} (hrnd : rnd.toNat ≤ 10) :
    ActsOnData s [.sIshr, .sIsub, .sArk rnd, .sImix] fun D => spnInvRound spnTables ws D rnd.toNat := by
  have hround := (actsOnData_sIshr s).append ((actsOnData_sIsub s).append ((h.sArk hrnd).append (actsOnData_sImix s)))
  exact hround.congr fun _ => rfl

theorem spnEncLayers (h : HoldsExpandedKey s ws) : ActsOnData s spnEncLayers (spnEnc spnTables ws) := by
  have hstart := h.sArk (rnd := 0) (by decide)
  have hrounds := hstart.append_flatMap (as := [1, 2, 3, 4, 5, 6, 7, 8, 9]) fun rnd hmem =>
    h.encRound (rnd := rnd) (by revert rnd; decide)
  have hlast := (actsOnData_sSub s).append ((actsOnData_sShr s).append (h.sArk (rnd := 10) (by decide)))
  exact (hrounds.append hlast).congr fun _ => rfl

theorem spnDecLayers (h : HoldsExpandedKey s ws) : ActsOnData s spnDecLayers (spnDec spnTables ws) := by
  have hstart := h.sArk (rnd := 10) (by decide)
  have hrounds := hstart.append_flatMap (as := [9, 8, 7, 6, 5, 4, 3, 2, 1]) fun rnd hmem =>
    h.decRound (rnd := rnd) (by revert rnd; decide)
  have hlast := (actsOnData_sIshr s).append ((actsOnData_sIsub s).append (h.sArk (rnd := 0) (by decide)))
  exact (hrounds.append hlast).congr fun _ => rfl

end HoldsExpandedKey

theorem statusWord_completed_of_skv {s : State} (hskv : s.skv = true) (D : Block128) :
    statusWord { s with data := D, err := .ok, busy := false, done := true } =
      (0x202 ||| if s.fkv then 0x100 else 0) ||| if s.ovr then 0x4 else 0 := by
  cases s.fkv <;> cases s.ovr <;> simp [statusWord, hskv, ErrCode.code]

/-- Settles O54: the layers are the steps of the block transform, each round key under its number. -/
theorem spnLayersEqualTheBlockCommands : Obligations.SpnLayersEqualTheBlockCommands := by
  unfold Obligations.SpnLayersEqualTheBlockCommands
  intro s hskv hsrk
  have hs := holdsExpandedKey_expandedKey hskv hsrk
  refine ⟨hs.sEnc.exec_eq.trans hs.spnEncLayers.execAll_eq.symm, hs.sDec.exec_eq.trans hs.spnDecLayers.execAll_eq.symm,
    fun i hi => ?_⟩
  rcases List.mem_pair.1 hi with rfl | rfl
  · exact ⟨_, hs.sEnc.exec_eq, statusWord_completed_of_skv hskv _⟩
  · exact ⟨_, hs.sDec.exec_eq, statusWord_completed_of_skv hskv _⟩

end Sys2Proof.Machine
end

section
/-! The driver's conversions between text and bytes (43_host_wrapper.md R270, R271). -/

namespace Sys2Proof.Machine

/-- The hex digits in the order of their values, the letters uppercase (R270). -/
def hexDigits : List Char := ['0', '1', '2', '3', '4', '5', '6', '7', '8', '9', 'A', 'B', 'C', 'D', 'E', 'F']

/-- The characters of R270: 0 to 9 and A to F of either case. -/
def IsHexDigit (c : Char) : Prop := ('0' ≤ c ∧ c ≤ '9') ∨ ('A' ≤ c ∧ c ≤ 'F') ∨ ('a' ≤ c ∧ c ≤ 'f')

/-! ## One digit -/

theorem hexChar_eq_getD : ∀ n < 16, hexChar n = hexDigits.getD n ' ' := by decide

theorem hexDigit_hexChar : ∀ n < 16, hexDigit (hexChar n) = some n := by decide

theorem hexDigit_isSome_iff (c : Char) : (hexDigit c).isSome = true ↔ IsHexDigit c := by
  unfold hexDigit IsHexDigit
  split_ifs <;> simp [*]

theorem hexDigit_toUpper (c : Char) : hexDigit c.toUpper = hexDigit c := by
  have hletters : ∀ i < 26, hexDigit (Char.ofNat (97 + i)).toUpper = hexDigit (Char.ofNat (97 + i)) := by decide
  by_cases hlower : 97 ≤ c.toNat ∧ c.toNat ≤ 122
  · have h := hletters (c.toNat - 97) (by omega)
    rwa [Nat.add_sub_cancel' hlower.1, Char.ofNat_toNat] at h
  · have hsame : c.toUpper = c := dif_neg hlower
    rw [hsame]

/-! ## Strings of digits -/

theorem hexToBytes_pair (h l : Char) (cs : List Char) : hexToBytes (h :: l :: cs) =
    (hexDigit h).bind fun a => (hexDigit l).bind fun b => (hexToBytes cs).map (BitVec.ofNat 8 (16 * a + b) :: ·) := by
  rw [hexToBytes]
  cases hexDigit h <;> cases hexDigit l <;> cases hexToBytes cs <;> rfl

theorem hexToBytes_hexChars {h l : Nat} (hh : h < 16) (hl : l < 16) (cs : List Char) :
    hexToBytes (hexChar h :: hexChar l :: cs) = (hexToBytes cs).map (BitVec.ofNat 8 (16 * h + l) :: ·) := by
  rw [hexToBytes_pair, hexDigit_hexChar h hh, hexDigit_hexChar l hl]
  rfl

theorem bytesToHex_cons (b : Byte) (bs : List Byte) :
    bytesToHex (b :: bs) = hexChar (b.toNat / 16) :: hexChar (b.toNat % 16) :: bytesToHex bs := rfl

@[simp] theorem hexToBytes_bytesToHex (bs : List Byte) : hexToBytes (bytesToHex bs) = some bs := by
  induction bs with
  | nil => rfl
  | cons b bs ih =>
    have hb := b.isLt
    rw [bytesToHex_cons, hexToBytes_hexChars (by omega) (by omega), ih, Nat.div_add_mod, BitVec.ofNat_toNat,
      BitVec.setWidth_eq]
    rfl

theorem hexToBytes_isSome_iff (cs : List Char) :
    (hexToBytes cs).isSome = true ↔ cs.length % 2 = 0 ∧ ∀ c ∈ cs, IsHexDigit c := by
  match cs with
  | [] => simp [hexToBytes]
  | [_] => simp [hexToBytes]
  | h :: l :: cs =>
    have hpair : (hexToBytes (h :: l :: cs)).isSome = true ↔
        (hexDigit h).isSome = true ∧ (hexDigit l).isSome = true ∧ (hexToBytes cs).isSome = true := by
      rw [hexToBytes_pair]
      cases hexDigit h <;> cases hexDigit l <;> simp
    rw [hpair, hexDigit_isSome_iff, hexDigit_isSome_iff, hexToBytes_isSome_iff cs, List.length_cons, List.length_cons,
      Nat.add_assoc, Nat.add_mod_right, List.forall_mem_cons, List.forall_mem_cons]
    tauto

theorem hexToBytes_map_toUpper (cs : List Char) : hexToBytes (cs.map Char.toUpper) = hexToBytes cs := by
  match cs with
  | [] => rfl
  | [_] => rfl
  | h :: l :: cs =>
    rw [List.map_cons, List.map_cons, hexToBytes_pair, hexToBytes_pair, hexDigit_toUpper, hexDigit_toUpper,
      hexToBytes_map_toUpper cs]

/-! ## Text (R271) -/

theorem textToBytes_of_le {text : List Char} (h : ∀ c ∈ text, c.toNat ≤ 0xFF) :
    textToBytes text = .ok (text.map fun c => BitVec.ofNat 8 c.toNat) :=
  if_pos (List.all_eq_true.2 fun c hc => decide_eq_true (h c hc))

theorem textToBytes_of_not_le {text : List Char} (h : ¬ ∀ c ∈ text, c.toNat ≤ 0xFF) :
    textToBytes text = .error .unencodableText :=
  if_neg fun hall => h fun c hc => of_decide_eq_true (List.all_eq_true.1 hall c hc)

theorem bytesToText_textBytes {text : List Char} (h : ∀ c ∈ text, c.toNat ≤ 0xFF) :
    bytesToText (text.map fun c => BitVec.ofNat 8 c.toNat) = text := by
  rw [bytesToText, List.map_map]
  refine (List.map_congr_left fun c hc => ?_).trans (List.map_id text)
  have hbyte : c.toNat % 2 ^ 8 = c.toNat := Nat.mod_eq_of_lt (Nat.lt_succ_of_le (h c hc))
  rw [Function.comp_apply, BitVec.toNat_ofNat, hbyte, Char.ofNat_toNat, id]

end Sys2Proof.Machine
end

section
/-! The driver's padding (43_host_wrapper.md R272, R273). -/

namespace Sys2Proof.Machine

theorem Engine.blockBytes_pos (e : Engine) : 0 < e.blockBytes := by cases e <;> decide

/-- A padding length is the value of a byte. -/
theorem Engine.blockBytes_le (e : Engine) : e.blockBytes ≤ 16 := by cases e <;> decide

/-- How many bytes `pad` appends, which is their value (R272). -/
def padCount (e : Engine) (bs : List Byte) : Nat := e.blockBytes - bs.length % e.blockBytes

theorem pad_eq (e : Engine) (bs : List Byte) :
    pad bs e.blockBytes = bs ++ List.replicate (padCount e bs) (BitVec.ofNat 8 (padCount e bs)) := rfl

theorem padCount_pos (e : Engine) (bs : List Byte) : 0 < padCount e bs :=
  Nat.sub_pos_of_lt (Nat.mod_lt _ e.blockBytes_pos)

theorem padCount_le (e : Engine) (bs : List Byte) : padCount e bs ≤ e.blockBytes := Nat.sub_le _ _

theorem toNat_padByte (e : Engine) (bs : List Byte) : (BitVec.ofNat 8 (padCount e bs)).toNat = padCount e bs := by
  have hle := padCount_le e bs
  have hblock := e.blockBytes_le
  rw [BitVec.toNat_ofNat, Nat.mod_eq_of_lt (by omega)]

theorem pad_length (e : Engine) (bs : List Byte) :
    (pad bs e.blockBytes).length = (bs.length / e.blockBytes + 1) * e.blockBytes := by
  have hdiv := Nat.div_add_mod' bs.length e.blockBytes
  have hlt := Nat.mod_lt bs.length e.blockBytes_pos
  rw [pad_eq, List.length_append, List.length_replicate, padCount, Nat.add_mul, Nat.one_mul]
  omega

/-- `unpad` looks at the last byte alone (R273). -/
theorem unpad_concat (bs : List Byte) (last : Byte) (B : Nat) : unpad (bs ++ [last]) B =
    if 1 ≤ last.toNat ∧ last.toNat ≤ B then (bs ++ [last]).take (bs.length + 1 - last.toNat) else bs ++ [last] := by
  rw [unpad, List.getLast?_concat]
  simp only [List.length_append, List.length_singleton]

theorem unpad_pad (e : Engine) (bs : List Byte) : unpad (pad bs e.blockBytes) e.blockBytes = bs := by
  obtain ⟨n, hn⟩ := Nat.exists_eq_add_of_lt (padCount_pos e bs)
  have hcount : padCount e bs = n + 1 := by omega
  have hconcat : pad bs e.blockBytes =
      (bs ++ List.replicate n (BitVec.ofNat 8 (padCount e bs))) ++ [BitVec.ofNat 8 (padCount e bs)] := by
    rw [List.append_assoc, ← List.replicate_succ', ← hcount, pad_eq]
  have hkept : (bs ++ List.replicate n (BitVec.ofNat 8 (padCount e bs))).length + 1 - padCount e bs = bs.length := by
    rw [List.length_append, List.length_replicate]
    omega
  rw [hconcat, unpad_concat, toNat_padByte, if_pos ⟨padCount_pos e bs, padCount_le e bs⟩, hkept, List.append_assoc,
    List.take_left]

/-- Settles O58: the digits and the padding by the lemmas above, each clause by the one that states it. -/
theorem hexAndPadding : Obligations.HexAndPadding := by
  unfold Obligations.HexAndPadding
  refine ⟨fun b bs => ?_, fun h l cs => ?_, hexToBytes_bytesToHex, hexToBytes_isSome_iff, hexToBytes_map_toUpper,
    fun e bs => ⟨?_, pad_length e bs, fun b hb => ?_, unpad_pad e bs⟩, fun e bs last => ⟨fun h => ?_, fun h1 h2 => ?_⟩,
    fun e => rfl⟩
  · have hb := b.isLt
    rw [bytesToHex_cons, hexChar_eq_getD _ (by omega), hexChar_eq_getD _ (by omega)]
    rfl
  · have hchars := hexToBytes_hexChars h.isLt l.isLt cs
    rwa [hexChar_eq_getD _ h.isLt, hexChar_eq_getD _ l.isLt] at hchars
  · rw [pad_eq, List.take_left]
  · rw [pad_eq, List.drop_left] at hb
    rw [List.eq_of_mem_replicate hb]
    exact toNat_padByte e bs
  · rw [unpad_concat, if_neg (by omega)]
  · rw [unpad_concat, if_pos ⟨h1, h2⟩]

end Sys2Proof.Machine
end

section
/-! What a driver call checks before it touches the block (43_host_wrapper.md R271, R274, R275). -/

namespace Sys2Proof.Machine

section Checks

variable {e : Engine} {key cipher : List Char}

theorem keyBytes_of_block {k : List Byte} (hhex : hexToBytes key = some k) (hlen : k.length = e.blockBytes) :
    keyBytes e key = .ok k := by
  simp [keyBytes, hhex, hlen]

theorem keyBytes_refused (h : ¬ ∃ k, hexToBytes key = some k ∧ k.length = e.blockBytes) :
    keyBytes e key = .error .invalidKeyFormat := by
  unfold keyBytes
  split
  next k hhex => exact if_neg fun hlen => h ⟨k, hhex, hlen⟩
  next => rfl

theorem ciphertextBytes_of_blocks {c : List Byte} (hhex : hexToBytes cipher = some c)
    (hlen : c.length % e.blockBytes = 0) : ciphertextBytes e cipher = .ok c := by
  simp [ciphertextBytes, hhex, hlen]

theorem ciphertextBytes_refused (h : ¬ ∃ c, hexToBytes cipher = some c ∧ c.length % e.blockBytes = 0) :
    ciphertextBytes e cipher = .error .invalidCiphertextFormat := by
  unfold ciphertextBytes
  split
  next c hhex => exact if_neg fun hlen => h ⟨c, hhex, hlen⟩
  next => rfl

end Checks

/-- Settles O59: each call checks the key first and hands on the error of the first check that fails. -/
theorem driverRefusals : Obligations.DriverRefusals := by
  unfold Obligations.DriverRefusals
  refine fun e text key s => ⟨fun hkey => ?_, fun hkey htext => ?_, fun hkey hcipher => ?_⟩
  · simp [driverEncrypt, driverDecrypt, keyBytes_refused hkey]
  · obtain ⟨k, hhex, hlen⟩ := hkey
    simp [driverEncrypt, keyBytes_of_block hhex hlen, textToBytes_of_not_le htext]
  · obtain ⟨k, hhex, hlen⟩ := hkey
    simp [driverDecrypt, keyBytes_of_block hhex hlen, ciphertextBytes_refused hcipher]

end Sys2Proof.Machine
end

section
/-! Byte strings as the words of a register block (00_scope.md R11; 20_memory.md R54): what the driver loads and what it
reads back. -/

namespace Sys2Proof.Machine

/-! ## Bytes and words -/

@[simp] theorem bytesToWords_length (n : Nat) (bs : List Byte) : (bytesToWords n bs).length = n := by
  induction n generalizing bs with
  | zero => rfl
  | succ n ih => rw [bytesToWords, List.length_cons, ih]

@[simp] theorem wordsToBytes_cons (w : Word) (ws : List Word) : wordsToBytes (w :: ws) =
    wbyte w 0 :: wbyte w 1 :: wbyte w 2 :: wbyte w 3 :: wordsToBytes ws := rfl

theorem wordsToBytes_length (ws : List Word) : (wordsToBytes ws).length = 4 * ws.length := by
  induction ws with
  | nil => rfl
  | cons w ws ih => simp only [wordsToBytes_cons, List.length_cons, ih, Nat.mul_succ]

theorem bytesToWords_wordsToBytes (ws : List Word) : bytesToWords ws.length (wordsToBytes ws) = ws := by
  induction ws with
  | nil => rfl
  | cons w ws ih => exact congrArg₂ List.cons (wordOfBytes_wbyte w) ih

theorem wordsToBytes_bytesToWords {n : Nat} {bs : List Byte} (h : bs.length = 4 * n) :
    wordsToBytes (bytesToWords n bs) = bs := by
  induction n generalizing bs with
  | zero => exact (List.length_eq_zero_iff.1 h).symm
  | succ n ih =>
    match bs, h with
    | b₀ :: b₁ :: b₂ :: b₃ :: bs, h =>
      have htail : wordsToBytes (bytesToWords n bs) = bs := ih (by simpa [Nat.mul_succ] using h)
      have hbyte (k : Nat) (hk : k < 4) := wbyte_wordOfBytes (fun k => (b₀ :: b₁ :: b₂ :: b₃ :: bs).getD k 0) k hk
      rw [bytesToWords, wordsToBytes_cons, hbyte 0 (by decide), hbyte 1 (by decide), hbyte 2 (by decide),
        hbyte 3 (by decide)]
      exact congrArg (b₀ :: b₁ :: b₂ :: b₃ :: ·) htail

/-! ## The words of a block -/

/-- v with consecutive words replaced from word k on, as writes of consecutive registers leave it. -/
def setWords (v : Block128) : Nat → List Word → Block128
  | _, [] => v
  | k, w :: ws => setWords (setWord v k w) (k + 1) ws

theorem wordOf_setWords (v : Block128) (k : Nat) (ws : List Word) {j : Nat} (hj : j < 4) :
    wordOf (setWords v k ws) j = if k ≤ j then ws.getD (j - k) (wordOf v j) else wordOf v j := by
  induction ws generalizing v k with
  | nil => simp [setWords]
  | cons w ws ih =>
    rw [setWords, ih, wordOf_setWord v k w j hj]
    rcases Nat.lt_trichotomy j k with h | rfl | h
    · rw [if_neg (by omega), if_neg (by omega), if_neg (by omega)]
    · simp
    · obtain ⟨d, rfl⟩ : ∃ d, j = k + 1 + d := ⟨j - (k + 1), by omega⟩
      have hindex : k + 1 + d - k = d + 1 := by omega
      rw [if_pos (by omega), if_neg (by omega), if_pos (by omega), Nat.add_sub_cancel_left, hindex,
        List.getD_cons_succ]

/-- How many words a block of the engine has (R277, R279). -/
abbrev Engine.wordCount (e : Engine) : Nat := e.blockBytes / 4

theorem Engine.wordCount_le (e : Engine) : e.wordCount ≤ 4 := by cases e <;> decide

theorem Engine.four_mul_wordCount (e : Engine) : 4 * e.wordCount = e.blockBytes := by cases e <;> decide

/-- The words of KEY or DATA that the driver loads and reads back: two for the Feistel engine, four for the SPN engine. -/
def Engine.visible (e : Engine) (v : Block128) : List Word := (List.range e.wordCount).map (wordOf v)

@[simp] theorem Engine.visible_length (e : Engine) (v : Block128) : (e.visible v).length = e.wordCount := by
  rw [visible, List.length_map, List.length_range]

theorem Engine.visible_setWords (e : Engine) (v : Block128) {ws : List Word} (h : ws.length = e.wordCount) :
    e.visible (setWords v 0 ws) = ws := by
  have hcount := e.wordCount_le
  apply List.ext_getElem
  · rw [visible_length, h]
  · intro j _ hj
    simp [visible, wordOf_setWords v 0 ws (show j < 4 by omega), hj]

/-- The visible words of the Feistel engine are DATA[127:64], or FKEY (R20, R21). -/
theorem visible_feistel_eq_iff {u v : Block128} :
    Engine.feistel.visible u = Engine.feistel.visible v ↔ u.extractLsb' 64 64 = v.extractLsb' 64 64 := by
  have hwords (w : Block128) : Engine.feistel.visible w =
      [(halves (w.extractLsb' 64 64)).1, (halves (w.extractLsb' 64 64)).2] := by rw [halves_high]; rfl
  refine ⟨fun h => ?_, fun h => by rw [hwords, hwords, h]⟩
  rw [hwords, hwords] at h
  injection h with hleft h
  injection h with hright
  rw [← joinHalves_halves (u.extractLsb' 64 64), Prod.ext hleft hright, joinHalves_halves]

/-- The visible words of the SPN engine are the whole block. -/
theorem visible_spn_eq_iff {u v : Block128} : Engine.spn.visible u = Engine.spn.visible v ↔ u = v := by
  refine ⟨fun h => eq_of_wordOf_eq fun k hk => ?_, congrArg _⟩
  exact List.map_inj_left.1 h k (List.mem_range.2 hk)

/-! ## A block function on byte strings -/

/-- The block that a byte string stands for, its words past the engine's own 0. -/
def Engine.load (e : Engine) (blk : List Byte) : Block128 := setWords 0 0 (bytesToWords e.wordCount blk)

/-- f on one block of bytes. -/
def Engine.onBytes (e : Engine) (f : Block128 → Block128) (blk : List Byte) : List Byte :=
  wordsToBytes (e.visible (f (e.load blk)))

/-- f on each of n blocks of bytes: ECB (R277). -/
def Engine.onBlocks (e : Engine) (f : Block128 → Block128) : Nat → List Byte → List Byte
  | 0, _ => []
  | n + 1, bs => e.onBytes f (bs.take e.blockBytes) ++ e.onBlocks f n (bs.drop e.blockBytes)

/-- The visible words of f's result depend on the visible words alone. -/
def Engine.KeepsVisible (e : Engine) (f : Block128 → Block128) : Prop :=
  ∀ u v, e.visible u = e.visible v → e.visible (f u) = e.visible (f v)

variable {e : Engine} {f g : Block128 → Block128}

theorem Engine.visible_load (e : Engine) (blk : List Byte) : e.visible (e.load blk) = bytesToWords e.wordCount blk :=
  e.visible_setWords 0 (bytesToWords_length _ _)

theorem Engine.onBytes_length (e : Engine) (f : Block128 → Block128) (blk : List Byte) :
    (e.onBytes f blk).length = e.blockBytes := by
  rw [onBytes, wordsToBytes_length, visible_length, four_mul_wordCount]

theorem Engine.onBytes_onBytes (hg : e.KeepsVisible g) (hgf : ∀ D, g (f D) = D) {blk : List Byte}
    (hlen : blk.length = e.blockBytes) : e.onBytes g (e.onBytes f blk) = blk := by
  have hback : e.visible (e.load (e.onBytes f blk)) = e.visible (f (e.load blk)) := by
    have hwords := bytesToWords_wordsToBytes (e.visible (f (e.load blk)))
    rwa [visible_length, ← visible_load] at hwords
  calc e.onBytes g (e.onBytes f blk)
      = wordsToBytes (e.visible (g (f (e.load blk)))) := congrArg wordsToBytes (hg _ _ hback)
    _ = wordsToBytes (bytesToWords e.wordCount blk) := by rw [hgf, visible_load]
    _ = blk := wordsToBytes_bytesToWords (by rw [hlen, four_mul_wordCount])

theorem Engine.onBlocks_length (e : Engine) (f : Block128 → Block128) (n : Nat) (bs : List Byte) :
    (e.onBlocks f n bs).length = n * e.blockBytes := by
  induction n generalizing bs with
  | zero => simp [onBlocks]
  | succ n ih => rw [onBlocks, List.length_append, onBytes_length, ih, Nat.succ_mul, Nat.add_comm]

theorem Engine.onBlocks_onBlocks (hg : e.KeepsVisible g) (hgf : ∀ D, g (f D) = D) {n : Nat} {bs : List Byte}
    (hlen : bs.length = n * e.blockBytes) : e.onBlocks g n (e.onBlocks f n bs) = bs := by
  induction n generalizing bs with
  | zero => exact (List.length_eq_zero_iff.1 (by simpa using hlen)).symm
  | succ n ih =>
    rw [Nat.succ_mul] at hlen
    have hfirst := e.onBytes_length f (bs.take e.blockBytes)
    rw [onBlocks, onBlocks, List.take_left' hfirst, List.drop_left' hfirst,
      onBytes_onBytes hg hgf (List.length_take_of_le (by omega)), ih (by rw [List.length_drop]; omega),
      List.take_append_drop]

end Sys2Proof.Machine
end

section
/-! The driver's transactions on an idle block (30_encoding.md R92; 43_host_wrapper.md R276): loading registers, running a
command, reading DATA back. -/

namespace Sys2Proof.Machine

variable {s : State}

theorem drive_cons {ev : Event} {t : State} (h : applyEvent ev s = .next t) (evs : List Event) :
    drive (ev :: evs) s = drive evs t := by
  simp [drive, h]

theorem drive_write (r : PortReg) (v : Word) (evs : List Event) (s : State) :
    drive (.write r.offset 4 v :: evs) s = drive evs (respond (writeReg r v s)) :=
  drive_cons (by rw [applyEvent_write, memWrite_offset]) evs

theorem drive_read (r : PortReg) (evs : List Event) (s : State) :
    drive (.read r.offset 4 :: evs) s = drive evs (respond (readReg r s)) :=
  drive_cons (by rw [applyEvent_read, memRead_offset]) evs

/-! ## Loading and reading back -/

theorem drive_loadKey (hidle : s.busy = false) {k : Nat} {ws : List Word} (h : k + ws.length ≤ 4) :
    ∃ fv sv rs, drive (loadWords (0x010 + 4 * k) ws) s =
      some { s with key := setWords s.key k ws, fkv := fv, skv := sv, responses := rs } := by
  induction ws generalizing s k with
  | nil => exact ⟨_, _, _, rfl⟩
  | cons w ws ih =>
    rw [List.length_cons] at h
    obtain ⟨fv, sv, rs, htail⟩ :=
      ih (s := respond (.written, writeKey ⟨k, by omega⟩ w s)) hidle (k := k + 1) (by omega)
    have hhead := drive_write (.key ⟨k, by omega⟩) w (loadWords (0x010 + 4 * (k + 1)) ws) s
    rw [writeReg, unlessBusy_idle hidle, htail] at hhead
    exact ⟨fv, sv, rs, hhead⟩

theorem drive_loadData (hidle : s.busy = false) {k : Nat} {ws : List Word} (h : k + ws.length ≤ 4) :
    ∃ rs, drive (loadWords (0x020 + 4 * k) ws) s =
      some { s with data := setWords s.data k ws, responses := rs } := by
  induction ws generalizing s k with
  | nil => exact ⟨_, rfl⟩
  | cons w ws ih =>
    rw [List.length_cons] at h
    obtain ⟨rs, htail⟩ := ih (s := respond (.written, writeData ⟨k, by omega⟩ w s)) hidle (k := k + 1) (by omega)
    have hhead := drive_write (.data ⟨k, by omega⟩) w (loadWords (0x020 + 4 * (k + 1)) ws) s
    rw [writeReg, unlessBusy_idle hidle, htail] at hhead
    exact ⟨rs, hhead⟩

theorem drive_readData (hidle : s.busy = false) {ks : List Nat} (h : ∀ k ∈ ks, k < 4) :
    drive (ks.map fun k => .read (BitVec.ofNat 10 (0x020 + 4 * k)) 4) s =
      some { s with responses := (ks.map fun k => .data (wordOf s.data k)).reverse ++ s.responses } := by
  induction ks generalizing s with
  | nil => rfl
  | cons k ks ih =>
    obtain ⟨hk, hks⟩ := List.forall_mem_cons.1 h
    have hhead := drive_read (.data ⟨k, hk⟩) (ks.map fun k => .read (BitVec.ofNat 10 (0x020 + 4 * k)) 4) s
    rw [readReg_data_idle hidle, ih (by exact hidle) hks] at hhead
    rw [List.map_cons, List.map_cons, List.reverse_cons, List.append_assoc]
    exact hhead

theorem latestWords_eq {ws : List Word} {rs : List Response} (h : s.responses = (ws.map .data).reverse ++ rs) :
    latestWords ws.length s = some ws := by
  have hlen : ws.length = (ws.map Response.data).reverse.length := by rw [List.length_reverse, List.length_map]
  have hlatest : s.responses.take ws.length = (ws.map .data).reverse := by rw [h, hlen, List.take_left]
  rw [latestWords, hlatest, List.reverse_reverse]
  exact List.mapM_map.trans ((List.mapM_pure (f := id)).trans (congrArg some (List.map_id ws)))

/-! ## Running a command (R276) -/

/-- The bits of STATUS that the driver takes as a fault are BUSY, OVR, ERR and a zero bit. -/
theorem statusWord_finish_ok_and {u : State} (hovr : u.ovr = false) : statusWord (finish .ok u) &&& 0xF5 = 0 := by
  rw [statusWord, finish_skv, finish_fkv, finish_err, finish_ovr, finish_done, finish_busy, hovr]
  cases u.skv <;> cases u.fkv <;> decide

theorem driverRun_eq {i : Instr} {u : State} (hidle : s.busy = false) (hovr : u.ovr = false)
    (hexec : exec i (respond (.written, accept (encode i) s)) = .next (finish .ok u)) :
    driverRun i s = .ok (respond (.data (statusWord (finish .ok u)), finish .ok u)) := by
  have hlegal : decode (respond (.written, accept (encode i) s)).cmdl = .ok i := by
    rw [respond_cmdl, accept_cmdl, decode_encode]
  have hcore : applyEvent .core (respond (.written, accept (encode i) s)) = .next (finish .ok u) := by
    rw [applyEvent_core, coreTurn_busy rfl, completeCommand_legal hlegal, hexec]
  have hdrive : drive (runEvents i) s = some (respond (.data (statusWord (finish .ok u)), finish .ok u)) := by
    have haccept := drive_write .cmd (encode i) [.core, .read PortReg.status.offset 4] s
    rw [writeReg, unlessBusy_idle hidle, drive_cons hcore, drive_read] at haccept
    exact haccept
  rw [driverRun, hdrive]
  exact if_pos (statusWord_finish_ok_and hovr)

end Sys2Proof.Machine
end

section
/-! The encrypt and decrypt calls on the block (43_host_wrapper.md R277 to R280, R282): what each computes from the key and
the text, and that the second undoes the first. -/

namespace Sys2Proof.Machine

namespace Engine

/-! ## The engine's commands as functions of DATA -/

/-- The engine's round keys are those of the key K (R25, R26). -/
def Scheduled (e : Engine) (K : Block128) (s : State) : Prop :=
  match e with
  | .feistel => HoldsSubkeys s (keySchedule feistelTables (K.extractLsb' 64 64))
  | .spn => HoldsExpandedKey s (keyExpansion spnTables K)

/-- The encryption command as a function of DATA (R161, R241). -/
def encryptBlock (e : Engine) (K : Block128) : Block128 → Block128 :=
  match e with
  | .feistel => onFblk fun x => feistelBlock feistelTables x (keySchedule feistelTables (K.extractLsb' 64 64))
  | .spn => spnEnc spnTables (keyExpansion spnTables K)

/-- The decryption command as a function of DATA (R162, R242). -/
def decryptBlock (e : Engine) (K : Block128) : Block128 → Block128 :=
  match e with
  | .feistel => onFblk fun x => feistelBlock feistelTables x (keySchedule feistelTables (K.extractLsb' 64 64)).reverse
  | .spn => spnDec spnTables (keyExpansion spnTables K)

theorem decryptBlock_encryptBlock (e : Engine) (K D : Block128) : e.decryptBlock K (e.encryptBlock K D) = D := by
  cases e with
  | feistel =>
    rw [decryptBlock, encryptBlock, onFblk_onFblk]
    exact onFblk_eq_self (feistelBlock_reverse (feistelTablesSound feistelTablesOk_default) · _) D
  | spn =>
    rw [decryptBlock, encryptBlock]
    exact spnDec_spnEnc spnTablesOk_default _ D

theorem keepsVisible_onFblk (f : Block64 → Block64) : Engine.feistel.KeepsVisible (onFblk f) := by
  intro u v h
  rw [visible_feistel_eq_iff] at h ⊢
  rw [onFblk, onFblk, BitVec.extractLsb'_append_eq_left, BitVec.extractLsb'_append_eq_left, h]

theorem keepsVisible_spn (f : Block128 → Block128) : Engine.spn.KeepsVisible f :=
  fun _ _ h => congrArg (fun D => Engine.spn.visible (f D)) (visible_spn_eq_iff.1 h)

/-- With the key K scheduled, the command i completes with f applied to DATA, and f respects what the driver sees. -/
structure Computes (e : Engine) (K : Block128) (i : Instr) (f : Block128 → Block128) : Prop where
  exec_eq : ∀ s, e.Scheduled K s → exec i s = .next (finish .ok (s.setData (f s.data)))
  keepsVisible : e.KeepsVisible f

theorem computes_encrypt (e : Engine) (K : Block128) : e.Computes K e.encrypt (e.encryptBlock K) := by
  cases e with
  | feistel =>
    rw [encryptBlock]
    exact ⟨fun s h => (HoldsSubkeys.fEnc h).exec_eq, keepsVisible_onFblk _⟩
  | spn =>
    rw [encryptBlock]
    exact ⟨fun s h => (HoldsExpandedKey.sEnc h).exec_eq, keepsVisible_spn _⟩

theorem computes_decrypt (e : Engine) (K : Block128) : e.Computes K e.decrypt (e.decryptBlock K) := by
  cases e with
  | feistel =>
    rw [decryptBlock]
    exact ⟨fun s h => (HoldsSubkeys.fDec h).exec_eq, keepsVisible_onFblk _⟩
  | spn =>
    rw [decryptBlock]
    exact ⟨fun s h => (HoldsExpandedKey.sDec h).exec_eq, keepsVisible_spn _⟩

/-! ## The schedule -/

variable {e : Engine} {K : Block128} {s t : State}

theorem Scheduled.of_same_roundKeys (h : e.Scheduled K s) (hfkv : t.fkv = s.fkv) (hfrk : t.frk = s.frk)
    (hskv : t.skv = s.skv) (hsrk : t.srk = s.srk) : e.Scheduled K t := by
  cases e with
  | feistel => exact ⟨hfkv.trans h.fkv, hfrk ▸ h.frk⟩
  | spn => exact ⟨hskv.trans h.skv, hsrk ▸ h.srk⟩

/-- The schedule depends on the words of the key that the driver loads. -/
theorem Scheduled.of_visible_eq {K' : Block128} (h : e.Scheduled K s) (hK : e.visible K = e.visible K') :
    e.Scheduled K' s := by
  cases e with
  | feistel =>
    rw [Scheduled] at h ⊢
    rwa [← visible_feistel_eq_iff.1 hK]
  | spn => rwa [← visible_spn_eq_iff.1 hK]

theorem exec_schedule (e : Engine) (s : State) :
    ∃ u, exec e.schedule s = .next (finish .ok u) ∧ u.ovr = s.ovr ∧ e.Scheduled s.key u := by
  cases e with
  | feistel => exact ⟨_, rfl, rfl, rfl, fun i => Vector.getElem_map _ i.isLt⟩
  | spn => exact ⟨_, rfl, rfl, rfl, fun j => Vector.getElem_map _ j.isLt⟩

/-! ## A call's work on the block -/

/-- Between two commands of a call: the block is idle without OVR, and the key is scheduled. -/
structure Ready (e : Engine) (K : Block128) (s : State) : Prop where
  idle : s.busy = false
  ovr : s.ovr = false
  scheduled : e.Scheduled K s

variable {i : Instr} {f : Block128 → Block128}

theorem driverRun_computes (hf : e.Computes K i f) (hs : e.Ready K s) :
    ∃ t, driverRun i s = .ok t ∧ t.data = f s.data ∧ e.Ready K t := by
  have haccepted : e.Scheduled K (respond (.written, accept (encode i) s)) :=
    hs.scheduled.of_same_roundKeys rfl rfl rfl rfl
  exact ⟨_, driverRun_eq hs.idle (by exact hs.ovr) (hf.exec_eq _ haccepted), rfl, rfl, hs.ovr,
    hs.scheduled.of_same_roundKeys rfl rfl rfl rfl⟩

/-- Reading DATA back gives the words of the block. -/
theorem drive_readWords (e : Engine) (hidle : s.busy = false) :
    ∃ rs, drive (readWords 0x020 e.wordCount) s = some { s with responses := rs } ∧
      latestWords e.wordCount { s with responses := rs } = some (e.visible s.data) := by
  have hcount := e.wordCount_le
  refine ⟨_, drive_readData hidle fun k hk => (List.mem_range.1 hk).trans_le hcount, ?_⟩
  have hlatest := latestWords_eq (s := { s with responses := ((e.visible s.data).map .data).reverse ++ s.responses }) rfl
  rw [visible_length, visible, List.map_map] at hlatest
  exact hlatest

theorem driverBlock_eq (hf : e.Computes K i f) (hs : e.Ready K s) (blk : List Byte) :
    ∃ t, driverBlock e i blk s = .ok (e.onBytes f blk, t) ∧ e.Ready K t := by
  have hlen : (bytesToWords e.wordCount blk).length = e.wordCount := bytesToWords_length _ _
  have hcount := e.wordCount_le
  obtain ⟨rs, hload⟩ := drive_loadData hs.idle (k := 0) (ws := bytesToWords e.wordCount blk) (by omega)
  have hloaded : e.Ready K { s with data := setWords s.data 0 (bytesToWords e.wordCount blk), responses := rs } :=
    ⟨hs.idle, hs.ovr, hs.scheduled.of_same_roundKeys rfl rfl rfl rfl⟩
  obtain ⟨t, hrun, hdata, ht⟩ := driverRun_computes hf hloaded
  obtain ⟨rs', hread, hwords⟩ := drive_readWords e ht.idle
  have hvisible : e.visible t.data = e.visible (f (e.load blk)) := by
    rw [hdata]
    exact hf.keepsVisible _ _ ((e.visible_setWords _ hlen).trans (e.visible_load blk).symm)
  refine ⟨{ t with responses := rs' }, ?_, ht.idle, ht.ovr, ht.scheduled.of_same_roundKeys rfl rfl rfl rfl⟩
  rw [Nat.mul_zero, Nat.add_zero] at hload
  simp only [driverBlock, hload, hrun, hread, hwords, hvisible, onBytes]

theorem driverBlocks_eq (hf : e.Computes K i f) (n : Nat) (hs : e.Ready K s) (bs : List Byte) :
    ∃ t, driverBlocks e i n bs s = .ok (e.onBlocks f n bs, t) := by
  induction n generalizing s bs with
  | zero => exact ⟨s, rfl⟩
  | succ n ih =>
    obtain ⟨t, hfirst, ht⟩ := driverBlock_eq hf hs (bs.take e.blockBytes)
    obtain ⟨t', hrest⟩ := ih ht (bs.drop e.blockBytes)
    exact ⟨t', by simp only [driverBlocks, hfirst, hrest, onBlocks]⟩

/-- After the key is loaded, the schedule command makes the block ready. -/
theorem driverRun_schedule (hidle : s.busy = false) (hovr : s.ovr = false) (hkey : e.visible s.key = e.visible K) :
    ∃ t, driverRun e.schedule s = .ok t ∧ e.Ready K t := by
  obtain ⟨u, hexec, huovr, hu⟩ := exec_schedule e (respond (.written, accept (encode e.schedule) s))
  have hovr' : u.ovr = false := huovr.trans hovr
  exact ⟨_, driverRun_eq hidle hovr' hexec, rfl, hovr',
    (hu.of_visible_eq hkey).of_same_roundKeys rfl rfl rfl rfl⟩

theorem driverTransform_eq {key : List Byte} (hf : e.Computes (e.load key) i f) (hidle : s.busy = false)
    (hovr : s.ovr = false) (bs : List Byte) :
    ∃ t, driverTransform e i key bs s = .ok (e.onBlocks f (bs.length / e.blockBytes) bs, t) := by
  have hlen : (bytesToWords e.wordCount key).length = e.wordCount := bytesToWords_length _ _
  have hcount := e.wordCount_le
  obtain ⟨fv, sv, rs, hload⟩ := drive_loadKey hidle (k := 0) (ws := bytesToWords e.wordCount key) (by omega)
  obtain ⟨t, hrun, ht⟩ := driverRun_schedule
    (s := { s with key := setWords s.key 0 (bytesToWords e.wordCount key), fkv := fv, skv := sv, responses := rs })
    hidle hovr ((e.visible_setWords _ hlen).trans (e.visible_load key).symm)
  obtain ⟨t', hblocks⟩ := driverBlocks_eq hf (bs.length / e.blockBytes) ht bs
  rw [Nat.mul_zero, Nat.add_zero] at hload
  exact ⟨t', by simp only [driverTransform, hload, hrun, hblocks]⟩

end Engine

section Calls

/-! ## The calls -/

variable {e : Engine} {key : List Char} {k : List Byte} {s : State}

theorem driverEncrypt_eq {text : List Char} {bs : List Byte} (hhex : hexToBytes key = some k)
    (hlen : k.length = e.blockBytes) (htext : textToBytes text = .ok bs) (hidle : s.busy = false)
    (hovr : s.ovr = false) :
    ∃ t, driverEncrypt e text key s = .ok (bytesToHex (e.onBlocks (e.encryptBlock (e.load k))
      ((pad bs e.blockBytes).length / e.blockBytes) (pad bs e.blockBytes)), t) := by
  obtain ⟨t, ht⟩ := Engine.driverTransform_eq (e.computes_encrypt (e.load k)) hidle hovr (pad bs e.blockBytes)
  exact ⟨t, by simp only [driverEncrypt, keyBytes_of_block hhex hlen, htext, ht]⟩

theorem driverDecrypt_eq {c : List Byte} (hhex : hexToBytes key = some k) (hlen : k.length = e.blockBytes)
    (hblocks : c.length % e.blockBytes = 0) (hidle : s.busy = false) (hovr : s.ovr = false) :
    ∃ t, driverDecrypt e (bytesToHex c) key s =
      .ok (bytesToText (unpad (e.onBlocks (e.decryptBlock (e.load k)) (c.length / e.blockBytes) c) e.blockBytes), t) := by
  obtain ⟨t, ht⟩ := Engine.driverTransform_eq (e.computes_decrypt (e.load k)) hidle hovr c
  exact ⟨t, by simp only [driverDecrypt, keyBytes_of_block hhex hlen,
    ciphertextBytes_of_blocks (hexToBytes_bytesToHex c) hblocks, ht]⟩

end Calls

/-- Settles O60: hex and padding are undone, and so is each block, whatever else the two blocks hold. -/
theorem driverRoundTrip : Obligations.DriverRoundTrip := by
  unfold Obligations.DriverRoundTrip
  intro e text key s s' hidle hovr hidle' hovr' htext ⟨k, hhex, hlen⟩
  obtain ⟨bs, hbytes, hback⟩ : ∃ bs, textToBytes text = .ok bs ∧ bytesToText bs = text :=
    ⟨_, textToBytes_of_le htext, bytesToText_textBytes htext⟩
  have hblocks (n : Nat) : n * e.blockBytes / e.blockBytes = n := Nat.mul_div_cancel _ e.blockBytes_pos
  have hpadded := pad_length e bs
  obtain ⟨t, henc⟩ := driverEncrypt_eq hhex hlen hbytes hidle hovr
  rw [hpadded, hblocks] at henc
  have hcipher := e.onBlocks_length (e.encryptBlock (e.load k)) (bs.length / e.blockBytes + 1) (pad bs e.blockBytes)
  obtain ⟨t', hdec⟩ := driverDecrypt_eq hhex hlen (by rw [hcipher, Nat.mul_mod_left]) hidle' hovr'
  rw [hcipher, hblocks, Engine.onBlocks_onBlocks (e.computes_decrypt _).keepsVisible (e.decryptBlock_encryptBlock _)
    hpadded, unpad_pad, hback] at hdec
  exact ⟨_, t, t', henc, hdec⟩

end Sys2Proof.Machine
end

section
/-! No error stops the block (60_exceptions.md rule R300): a transaction and a reset have a next state whatever
they are, and a completion whatever word CMDL holds. -/

namespace Sys2Proof.Machine

/-- Settles O8: every event has a next state, and the core's turn has one because each command, and an illegal word too,
completes with a code. -/
theorem noStepStops : Obligations.NoStepStops := by
  unfold Obligations.NoStepStops StepSafe
  exact exists_step

end Sys2Proof.Machine
end

section
/-! The reset event in any state (70_reset_and_hazards.md rule R340). -/

namespace Sys2Proof.Machine

/-- STATUS is made of elements that a reset gives their reset value, so it reads what it reads after reset. -/
@[simp] theorem statusWord_applyReset (s : State) : statusWord (applyReset s) = statusWord State.reset := rfl

/-- Settles O21: the reset event leaves every element of R37 as `State.reset` has it, and `resetState` says what that
is. -/
theorem resetEvent : Obligations.ResetEvent := by
  unfold Obligations.ResetEvent
  intro s rest
  obtain ⟨hkey, hdata, hfrk, hsrk, hfkv, hskv, hbusy, hdone, hovr, herr, hcmdl, hstatus, -⟩ := resetState
  refine ⟨applyReset { s with inputs := rest }, by rw [step_cons, applyEvent_reset], ?_⟩
  simp only [applyReset_key, applyReset_data, applyReset_frk, applyReset_srk, applyReset_fkv, applyReset_skv,
    applyReset_busy, applyReset_done, applyReset_ovr, applyReset_err, applyReset_cmdl, statusWord_applyReset]
  exact ⟨hkey, hdata, hfrk, hsrk, hfkv, hskv, hbusy, hdone, hovr, herr, hcmdl, hstatus⟩

end Sys2Proof.Machine
end
